-- ==== Sys2Proof/Word.lean ====
section
/-! DEFINITION. The plain data types of the PB-640 that no block owns: bytes, the sets that the record formats
send as bit maps (R182), the numberings of buildings, zones, lines, buses, runs and generators, and the campus
time stamp (R1). -/

namespace Sys2Proof

/-- One byte on the host link or on a building bus. -/
abbrev Byte := BitVec 8

/-- One building's part of a zone set: bit z stands for zone z of the building (00_scope.md, 5.3). -/
abbrev ZoneMap := BitVec 8

/-- A subset of the eight buildings: bit b stands for building b (R182, "Building set"). -/
abbrev BuildingSet := BitVec 8

/-- A subset of the 64 zones: bit 8 b + z stands for zone b.z (R182, "Zone set"). -/
abbrev ZoneSet := BitVec 64

/-- A subset of the 16 conditions: bit n stands for condition number n (R178). -/
abbrev CondSet := BitVec 16

/-- A building, which is also its bus, its trunk and its row of the trunk claim table: 0 to 7. -/
abbrev Building := Fin 8

/-- A clock line, 0 to 15 (R42). -/
abbrev LineNo := Fin 16

/-- A day plan, 0 to 15 (R64). -/
abbrev PlanNo := Fin 16

/-- A ring run by the index of its slot: index i is the run whose id is i + 1 (R107). -/
abbrev RunIx := Fin 12

/-- A tone generator TG0 to TG3 (R104). -/
abbrev GenNo := Fin 4

/-- A campus time: a day number (day 0 is 2000-01-01) and a second of the day (R1). A stamp that may be absent is
an `Option Stamp`. -/
structure Stamp where
  day : Nat
  sec : Nat
  deriving DecidableEq, Repr, Inhabited

/-- Polarity of an impulse, of a movement and of a driver's relay (R23). -/
inductive Polarity where
  | pos
  | neg
  deriving DecidableEq, Repr, Inhabited

/-- The state of a marshal panel's drill lamp (R25). -/
inductive LampState where
  | off
  | on
  | flash
  deriving DecidableEq, Repr, Inhabited

/-- The three kinds of field station (section 2.2). -/
inductive StationKind where
  | zoneSwitch
  | lineDriver
  | marshalPanel
  deriving DecidableEq, Repr, Inhabited

/-- A paging slot, which is also its microphone, its push-to-talk switch and its busy lamp (chapter 8). -/
inductive PageSlot where
  | a
  | b
  deriving DecidableEq, Repr, Inhabited

/-- What a line driver's finished measurement found (R24). -/
inductive Measured where
  | ok (load : Nat)
  | lineOpen
  | short
  deriving DecidableEq, Repr, Inhabited

end Sys2Proof
end

