-- ==== Sys2Proof/Syntax.lean ====
section
/-! DEFINITION. The commands: `Request`, the 52 requests the host link carries with the fields their rules name,
and `Instr`, one constructor per row of spec/opcode_table.json. A number is carried as the host sent it, so that
the RANGE checks of the rules have something to refuse; a named value is carried as its code (R182). -/

namespace Sys2Proof

/-- One of the eight step places of PATTERN SET (R103). -/
inductive StepPlace where
  | tone (tone duration : Nat)
  | gap (duration : Nat)
  | finish
  deriving DecidableEq, Repr, Inhabited

/-- The kind of a timetable entry with the fields that kind carries (R64). `other` is a kind byte that names neither. -/
inductive EntryArg where
  | ring (pattern : Nat)
  | clip (clip priority : Nat)
  | other (code : Nat)
  deriving DecidableEq, Repr, Inhabited

/-- Every field of SETTINGS SET (R177). A bypass mode is 0 BYPASS or 1 IN-ORDER, a stamp mode 0 FIRST or 1 LAST. -/
structure SettingsArg where
  lateWindow : Nat
  bellWindow : Nat
  announceExpiry : Nat
  pageTalk : Nat
  pageWait : Nat
  retry : Vector Nat 8
  bypass : Vector Nat 8
  stampMode : Nat
  deriving DecidableEq, Repr

/-- A request of the host, with the fields its rule names (the request index, section 11.6). -/
inductive Request where
  | timeSet (day sec : Nat)
  | timeGet
  | trimSet (trim : Int)
  | shiftPlan (day stated : Nat) (shift : Int)
  | shiftCancel
  | stampGet
  | stampClear
  | stationConfig (building address kind : Nat)
  | stationStatus (building : Nat)
  | lineConfig (line building address : Nat) (span hold catchUp width : Option Nat)
  | dialSet (line hh mm : Nat)
  | lineEnable (line : Nat)
  | lineDisable (line : Nat)
  | lineProbe (line : Nat)
  | lineStatus (line : Nat)
  | planClear (plan : Nat)
  | entryAdd (plan time : Nat) (kind : EntryArg) (zones : ZoneSet)
  | entryRemove (plan index : Nat)
  | entryList (plan start : Nat)
  | weekSet (plans : Vector Nat 7)
  | exceptionAdd (first last plan : Nat)
  | exceptionRemove (day : Nat)
  | exceptionList (start : Nat)
  | dayQuery (day : Nat)
  | zoneSet (zones : ZoneSet) (value : Nat)
  | quietSet (zones : ZoneSet) (until_ : Stamp)
  | quietClear (zones : ZoneSet)
  | trunkStatus (building : Nat)
  | patternSet (pattern : Nat) (places : Vector StepPlace 8)
  | patternGet (pattern : Nat)
  | ringNow (pattern : Nat) (zones : ZoneSet)
  | runStop (run : Nat)
  | runList (first : Nat)
  | clipDefine (clip length : Nat)
  | announce (clip : Nat) (zones : ZoneSet) (priority : Nat) (notBefore : Option Stamp) (expiry : Option Nat)
  | announceCancel (id : Nat)
  | queueList (start : Nat)
  | finishedList
  | pageSet (slot : Nat) (zones : ZoneSet) (priority chime trigger : Nat)
  | pageClose (slot : Nat)
  | scriptSet (script preClip preDelay pattern evacuation clearLimit allClear : Nat)
  | drillStart (script : Nat) (buildings : BuildingSet)
  | drillSchedule (script : Nat) (buildings : BuildingSet) (moment : Stamp)
  | drillCancel
  | drillRecordGet (number : Nat)
  | alarmResume
  | status
  | conditionsClear (conditions : CondSet)
  | attentionSet (conditions : CondSet)
  | settingsSet (settings : SettingsArg)
  | settingsGet
  | restart
  deriving DecidableEq, Repr

/-- The commands, one constructor per row of spec/opcode_table.json. The first 52 are the host's requests, each
with the tag of its frame (R173); the others are what the link, the crystal, the supplies, the buses, the clip
port, the paging inputs, the fire panel and the field stations do to the device. -/
inductive Instr where
  | timeSet (tag day sec : Nat)
  | timeGet (tag : Nat)
  | trimSet (tag : Nat) (trim : Int)
  | shiftPlan (tag day stated : Nat) (shift : Int)
  | shiftCancel (tag : Nat)
  | stampGet (tag : Nat)
  | stampClear (tag : Nat)
  | stationConfig (tag building address kind : Nat)
  | stationStatus (tag building : Nat)
  | lineConfig (tag line building address : Nat) (span hold catchUp width : Option Nat)
  | dialSet (tag line hh mm : Nat)
  | lineEnable (tag line : Nat)
  | lineDisable (tag line : Nat)
  | lineProbe (tag line : Nat)
  | lineStatus (tag line : Nat)
  | planClear (tag plan : Nat)
  | entryAdd (tag plan time : Nat) (kind : EntryArg) (zones : ZoneSet)
  | entryRemove (tag plan index : Nat)
  | entryList (tag plan start : Nat)
  | weekSet (tag : Nat) (plans : Vector Nat 7)
  | exceptionAdd (tag first last plan : Nat)
  | exceptionRemove (tag day : Nat)
  | exceptionList (tag start : Nat)
  | dayQuery (tag day : Nat)
  | zoneSet (tag : Nat) (zones : ZoneSet) (value : Nat)
  | quietSet (tag : Nat) (zones : ZoneSet) (until_ : Stamp)
  | quietClear (tag : Nat) (zones : ZoneSet)
  | trunkStatus (tag building : Nat)
  | patternSet (tag pattern : Nat) (places : Vector StepPlace 8)
  | patternGet (tag pattern : Nat)
  | ringNow (tag pattern : Nat) (zones : ZoneSet)
  | runStop (tag run : Nat)
  | runList (tag first : Nat)
  | clipDefine (tag clip length : Nat)
  | announce (tag clip : Nat) (zones : ZoneSet) (priority : Nat) (notBefore : Option Stamp) (expiry : Option Nat)
  | announceCancel (tag id : Nat)
  | queueList (tag start : Nat)
  | finishedList (tag : Nat)
  | pageSet (tag slot : Nat) (zones : ZoneSet) (priority chime trigger : Nat)
  | pageClose (tag slot : Nat)
  | scriptSet (tag script preClip preDelay pattern evacuation clearLimit allClear : Nat)
  | drillStart (tag script : Nat) (buildings : BuildingSet)
  | drillSchedule (tag script : Nat) (buildings : BuildingSet) (moment : Stamp)
  | drillCancel (tag : Nat)
  | drillRecordGet (tag number : Nat)
  | alarmResume (tag : Nat)
  | status (tag : Nat)
  | conditionsClear (tag : Nat) (conditions : CondSet)
  | attentionSet (tag : Nat) (conditions : CondSet)
  | settingsSet (tag : Nat) (settings : SettingsArg)
  | settingsGet (tag : Nat)
  | restart (tag : Nat)
  /-- A byte arrives on RXD (R173). -/
  | linkByte (byte : Byte)
  /-- More than 100 ms pass after a byte of a frame (R173). -/
  | byteGap
  /-- The check byte of the frame in reception arrives (R174). -/
  | frameEnd (check : Byte)
  /-- The last byte of the reply frame goes out (R174). -/
  | replySent
  /-- The campus second ends (R3). -/
  | secondEnd
  /-- The campus second ends at which the planned shift applies (R12). -/
  | shiftApply
  /-- VMAIN falls while the state is MAIN (R13). `taken`: the buses on which the station, or the zone switch hearing
  an apply mark, had already taken the transaction that the loss of power cuts off (R40). -/
  | entryToBackup (taken : BuildingSet)
  /-- VMAIN rises above or falls below its valid level while on backup (R14). -/
  | mainSupplyChange (valid : Bool)
  /-- VMAIN has been valid for 2 s on backup, retained state valid (R14). -/
  | restore
  /-- VMAIN has been valid for 2 s with the retained state not valid (R17). -/
  | coldStart
  | resetnAssert
  | resetnRelease
  /-- The attempt on a bus succeeds (R20). `shorted`: what the line driver's current check finds (R23). -/
  | successfulAttempt (bus : Building) (shorted : Bool)
  /-- The station leaves an acknowledgement slot high (R20). -/
  | failedAttempt (bus : Building)
  /-- The station, having acknowledged every byte the master sent, holds busy beyond 200 ms (R20). -/
  | busyLimit (bus : Building) (shorted : Bool)
  /-- The apply mark on a bus ends (R33). -/
  | applyMark (bus : Building)
  /-- A station's poll interval, or its probe poll's wait, runs out (R29). -/
  | pollDue (bus : Building) (address : Nat)
  /-- A line driver's driving-until time passes (R23). -/
  | drivingUntil (bus : Building) (address : Nat)
  /-- The second event that brings a line in ADVANCE to its pace (R48). -/
  | impulseIssue (line : LineNo)
  /-- The second event that brings a faulty line's wait count to 30 (R55). -/
  | faultProbe (line : LineNo)
  /-- The second event at which the entry of today's plan in this pool slot falls due (R75). -/
  | entryDue (slot : Nat)
  /-- The second event that ends a zone's quiet (R86). -/
  | quietEnd (building : Building) (zone : Fin 8)
  /-- The second event that brings a run's deadline count to 0 (R111). -/
  | ringDeadline (run : RunIx)
  /-- A generator's last pattern step runs out (R104). -/
  | patternEnd (gen : GenNo)
  /-- The second event at which a request's not-before time is reached (R126). -/
  | eligible (id : Nat)
  /-- The second event that brings a request's expiry count to 0 (R126). -/
  | expired (id : Nat)
  /-- The store asserts CPLAY (R120). -/
  | cplayAsserted
  /-- The store releases CPLAY (R120, R121). -/
  | cplayReleased
  | startWindow
  | endLimit
  | stopWindow
  /-- A push-to-talk input changes level (R138). -/
  | pttLevelChange (slot : PageSlot) (asserted : Bool)
  /-- A push-to-talk input has held its new level for 50 ms (R138). -/
  | pttChange (slot : PageSlot)
  /-- The second event that brings a WAITING slot's wait count to the page wait limit (R142). -/
  | pageWaitLimit (slot : PageSlot)
  /-- The second event that brings an open page's talk count to the page talk limit (R143). -/
  | pageTalkLimit (slot : PageSlot)
  /-- The second event that brings PRE's phase count to the pre-delay (R151). -/
  | preDelayEnd
  /-- The second event that brings EVAC's phase count to the evacuation duration (R153). -/
  | evacEnd
  /-- The second event that brings MUSTER's phase count to the clear limit (R156). -/
  | clearLimit
  /-- The second event at or after the scheduled drill's moment (R150). -/
  | scheduledDrillArrival
  /-- The FIRE input changes level (R163). -/
  | fireLevelChange (asserted : Bool)
  /-- FIRE has stayed asserted for 1 s (R163). -/
  | activation
  /-- FIRE has stayed deasserted for 10 s (R163). -/
  | quieting
  /-- The marshal of a building presses "building clear" (R25). -/
  | buildingClearPress (building : Building)
  /-- A line driver's measurement finishes (R24). -/
  | probeMeasurementEnd (bus : Building) (address : Nat) (result : Measured)
  /-- The backup supply fails while the main supply is absent (R17). -/
  | backupSupplyLoss
  deriving DecidableEq, Repr

end Sys2Proof
end

