-- ==== Sys2Proof/Decode.lean ====
section
/-! DEFINITION. The decoder of the table's words. Every row of spec/opcode_table.json has an empty list of fields, so
no row gives bits and no word spells a command. The frames of the host link, which do carry requests in bytes, are
read by `decodeBody` (Operands.lean) and `byteArrives` (Link.lean). -/

namespace Sys2Proof

/-- The command that the bits of `w` spell: none, for no row of the table gives bits. -/
def decodeTableWord (_nbits _w : Nat) : Option Instr := none

end Sys2Proof
end

