-- ==== Sys2Proof/Config.lean ====
section
/-! DEFINITION. What the part fixes (sizes, limits, lengths of intervals) and the free values: points that the
spec leaves open and for which the model holds an opaque constant, so that no proof can see a value. -/

namespace Sys2Proof.Config

/-- Crystal ticks in a nominal campus second, and in a second of true time (R3). -/
def ticksPerSecond : Nat := 32768

/-- The last day number, 2099-12-31 (R1). -/
def lastDay : Nat := 36524

/-- Seconds in a day. -/
def secondsPerDay : Nat := 86400

/-- The seconds of the calendar of R1: 36 525 days. -/
def calendarSeconds : Nat := 36525 * 86400

/-- Crystal ticks in `ms` milliseconds of true time, rounded up: a limit is over when so many ticks have passed. -/
def msTicks (ms : Nat) : Nat := (ms * 32768 + 999) / 1000

/-- Capacity of a command queue in NORMAL and in ALARM mode (R31). -/
def queueCapNormal : Nat := 6
def queueCapAlarm : Nat := 2

/-- Slots of the entry pool and the largest number of entries in one plan (R64, R65). -/
def poolSlots : Nat := 384
def planEntries : Nat := 96

/-- Rows of the exception table (R69). -/
def exceptionRows : Nat := 40

/-- Places of the announcement queue and of the finished list (R123, R133). -/
def announceCap : Nat := 12
def finishedCap : Nat := 8

/-- Places of the generator wait list (R112). -/
def waitListCap : Nat := 8

/-- Places of the record store (R158). -/
def recordCap : Nat := 8

/-- Largest body of a reply frame: length 253 less the kind and the tag (R173, R182). -/
def replyBodyMax : Nat := 250

/-- How many messages one command may pass between blocks before the rest stays on the agenda (log entry 7). -/
def agendaFuel : Nat := 4096

/-- FREE VALUE (log entry 10): which free pool slot an accepted entry takes (R65 says "a free slot" and no more).
The argument is the count of free values drawn so far. -/
opaque pickSlot : Nat → Nat

/-- FREE VALUE (log entry 11): whether, at entry to backup and at RESTART, the outcomes of the ended runs reach TT
before TT's own marking (R81 and R83: "the two may reach the entry in either order"). -/
opaque outcomeFirst : Nat → Bool

/-- FREE VALUE (log entry 9): what a reply sends for a number that does not fit the bytes its layout gives it (R182
gives two bytes, or one, and does not say). The argument is the number. -/
opaque wideNumber : Nat → Nat

end Sys2Proof.Config
end

