-- ==== Sys2Proof/Machine/State.lean ====
section
/-! DEFINITION. The state of the PB-640 and of what is wired to it, as plain data, block by block in the order of
the block table (00_scope.md, section 3); the reasons a step can stop; and the state after reset, which is the
state a COLD start leaves. INVENTORY.md lists every field with its rule and its reset value. -/

namespace Sys2Proof.Machine

/-! ## Why a step can stop -/

/-- The machine stops with a fault. No rule of the spec stops this part: every command has a next state. The one
constructor is there because the interface asks for a type. -/
inductive Fault where
  /-- Raised by nothing. Safe: no meaning answers it. -/
  | neverRaised
  deriving DecidableEq, Repr

/-- No meaning for the command. -/
inductive Refusal where
  /-- A row of the table that has no meaning yet. Safe: it stops the run. No arm raises it. -/
  | notModelled (mnemonic : String)
  deriving DecidableEq, Repr

/-! ## TB: campus time and supply (chapter 1) -/

inductive Supply where
  | main
  | backup
  deriving DecidableEq, Repr

/-- The planned shift slot's contents (R10). -/
structure ShiftPlan where
  day : Nat
  stated : Nat
  shift : Int
  deriving DecidableEq, Repr

/-- Why campus time was stepped (R7). -/
inductive StepCause where
  | set
  | shift
  | restart
  deriving DecidableEq, Repr

/-- What a time-step event carries (R7). -/
structure TimeStep where
  old : Option Stamp
  new : Stamp
  cause : StepCause
  dateChanged : Bool
  deriving DecidableEq, Repr

/-- What a second event carries (R5). -/
structure SecondEvent where
  new : Option Stamp
  minute : Bool
  day : Bool
  step : Option TimeStep
  deriving DecidableEq, Repr

/-- A RESTART in progress: the campus time at its beginning, whether a second ended during it, and whether a
planned shift was applied during it (R18). -/
structure RestartRun where
  began : Option Stamp
  spanned : Bool
  shifted : Bool
  deriving DecidableEq, Repr

/-- TB's state, the supply monitor's and the levels of VMAIN and RESETN. Time is VALID exactly while `time` is
present (R2). -/
structure Timebase where
  /-- date and second of the day (R1) -/
  time : Option Stamp
  /-- crystal ticks since the second began (R3) -/
  sub : Nat
  /-- length of the second in progress, fixed when it began (R3) -/
  secLen : Nat
  trim : Int
  slot : Option ShiftPlan
  supply : Supply
  stampCount : Nat
  stampStart : Option Stamp
  stampEnd : Option Stamp
  /-- the outage start noted at entry to backup (R13) -/
  outageStart : Option Stamp
  /-- the step of a shift applied on backup (R14) -/
  outageShift : Option (Stamp × Stamp)
  /-- RESTART in progress (R18) -/
  restart : Option RestartRun
  /-- VMAIN is at its valid level -/
  vmain : Bool
  /-- when the qualification of VMAIN began, in true time (R14) -/
  qualifying : Option Nat
  /-- the retained state is valid (R17) -/
  retained : Bool
  /-- RESETN is asserted -/
  resetn : Bool
  /-- VBAK is at its valid level (R17; log entry 38) -/
  vbak : Bool
  /-- MODEL's own: true time in crystal ticks, from which the intervals of true time are measured -/
  clock : Nat
  deriving DecidableEq, Repr

/-! ## BC0 to BC7: building buses and stations (chapter 2) -/

inductive StationState where
  | unknown
  | online
  | offline
  deriving DecidableEq, Repr

/-- One configured row of the station table (section 2.3) with the controller's schedule for that station
(R29, R30) and its driving-until time (R23). Times are true times. -/
structure Station where
  addr : Nat
  kind : StationKind
  state : StationState
  /-- consecutive-failure count (R35) -/
  fails : Nat
  lastHeard : Option Stamp
  /-- a command moved it from UNKNOWN to ONLINE since its last poll (R28) -/
  unreported : Bool
  /-- the scheduled poll, waiting to be due -/
  pollAt : Option Nat
  /-- the pending poll that is due, with the moment it fell due (R32) -/
  dueAt : Option Nat
  /-- the probe poll, waiting to be due (R30) -/
  probeAt : Option Nat
  /-- the due poll is a probe poll -/
  probeDue : Bool
  /-- further probe polls that RUNNING answers have called for (R30) -/
  probeRuns : Nat
  /-- end of the last poll that ended in success or exhausted retries (R29) -/
  lastPoll : Option Nat
  drivingUntil : Option Nat
  deriving DecidableEq, Repr

/-- The commands that blocks queue (section 2.2). -/
inductive BusOp where
  | stage (map : ZoneMap)
  | mute
  | impulse (polarity : Polarity) (width : Nat)
  | probe
  | lamp (lamp : LampState)
  deriving DecidableEq, Repr

/-- The block that placed a command. TA is the trunk of the bus's building. -/
inductive Owner where
  | lc (line : LineNo)
  | ta
  | dc
  | ah
  deriving DecidableEq, Repr

/-- An entry of a command queue (section 2.5). `serial` is the MODEL's own: it tells one command from another, as
"the very command recorded" of R93 needs. -/
structure Command where
  addr : Nat
  op : BusOp
  owner : Owner
  serial : Nat
  deriving DecidableEq, Repr

/-- A line driver's answer to IMPULSE (R23). -/
inductive ImpulseAnswer where
  | driven
  | already
  | short
  deriving DecidableEq, Repr

inductive DiscardReason where
  | stationLost
  | alarmMode
  | removed
  deriving DecidableEq, Repr

/-- The outcome of a command (R34). DONE carries the answer of an IMPULSE and the campus time at the end of the
attempt. -/
inductive CmdOutcome where
  | done (answer : Option ImpulseAnswer) (at_ : Option Stamp)
  | failed
  | discarded (reason : DiscardReason)
  deriving DecidableEq, Repr

/-- What a transaction with a station exchanges. A poll is marked when it is a probe poll. -/
inductive Exchange where
  | command (c : Command)
  | poll (probe : Bool)
  deriving DecidableEq, Repr

/-- A transaction: its station, what it exchanges, and whether its station's row was removed since it began (R26)
or a RESTART has begun since (R41). -/
structure Transaction where
  addr : Nat
  what : Exchange
  orphan : Bool
  carried : Bool
  deriving DecidableEq, Repr

/-- What is on a bus's wires: nothing, the apply mark, or an attempt of a transaction. -/
inductive Wire where
  | idle
  | applyMark
  | attempt (t : Transaction)
  deriving DecidableEq, Repr

/-- A line driver's probe status (R24). -/
inductive ProbeStatus where
  | none
  | running
  | ok (load : Nat)
  | lineOpen
  | short
  deriving DecidableEq, Repr

/-- A field station's own state, by its address: the two maps of a zone switch (R22), the relay and the probe
status of a line driver (R23, R24), the press latch (with the true time of the press) and the lamp of a marshal
panel (R25). A station uses the fields of its kind. Address 0, which no station has, stands for a marshal panel whose
address no row gives (log entry 45). -/
structure FieldStation where
  addr : Nat
  active : ZoneMap
  staged : ZoneMap
  latch : Polarity
  probe : ProbeStatus
  press : Option Nat
  lamp : LampState
  deriving DecidableEq, Repr

/-- One building bus controller with the stations on its bus. -/
structure Bus where
  /-- the configured rows of the building, at most four (section 2.3) -/
  rows : List Station
  /-- the command queue, head first (R31) -/
  queue : List Command
  /-- transactions between a failed attempt and the next (R32) -/
  retries : List Transaction
  wire : Wire
  applyPending : Bool
  /-- bus mode ALARM (R38) -/
  alarm : Bool
  drillFast : Bool
  alarmFast : Bool
  /-- outcomes of carried attempts, returned when the RESTART ends (R41) -/
  heldOut : List (Command × CmdOutcome)
  /-- the field stations that have been addressed or acted on; any other is as it is when powered -/
  field : List FieldStation
  deriving DecidableEq, Repr

/-! ## LC: clock lines (chapter 3) -/

inductive LineState where
  | disabled
  | unset
  | offline
  | probe
  | fault
  | noTime
  | run
  | hold
  | advance
  deriving DecidableEq, Repr

inductive FaultCause where
  | impulseShort
  | probeOpen
  | probeShort
  deriving DecidableEq, Repr

inductive ProbeOrigin where
  | host
  | fault
  deriving DecidableEq, Repr

inductive ProbeStage where
  | pending
  | sent
  | reading
  deriving DecidableEq, Repr

/-- The last probe result (R54). -/
inductive ProbeResult where
  | none
  | ok (load : Nat)
  | lineOpen
  | short
  deriving DecidableEq, Repr

inductive DriverView where
  | online
  | unknown
  | offline
  | absent
  deriving DecidableEq, Repr

/-- The record of a configured clock line (section 3.1). -/
structure Line where
  building : Building
  addr : Nat
  /-- dial span D -/
  span : Nat
  /-- hold limit H -/
  hold : Nat
  /-- catch-up interval R -/
  catchUp : Nat
  /-- impulse width in ms -/
  width : Nat
  enabled : Bool
  /-- dial position P -/
  pos : Option Nat
  setPos : Option Nat
  /-- last polarity -/
  pol : Option Polarity
  /-- confirmed impulse counter -/
  counter : BitVec 32
  inFlight : Option Polarity
  pace : Nat
  fault : Option FaultCause
  faultWait : Nat
  probe : Option (ProbeOrigin × ProbeStage)
  lastProbe : ProbeResult
  lastProbeAt : Option Stamp
  view : DriverView
  /-- driver latch as last read -/
  latch : Option Polarity
  state : LineState
  deriving DecidableEq, Repr

/-! ## TT: timetable and calendar (chapter 4) -/

/-- Priority of an announcement or a page (R64, R137). -/
inductive Urgency where
  | normal
  | urgent
  deriving DecidableEq, Repr

inductive EntryKind where
  | ring (pattern : Nat)
  | clip (clip : Nat) (urgency : Urgency)
  deriving DecidableEq, Repr

inductive Mark where
  | pending
  | sent
  | rung
  | late
  | partly
  | missed
  | suppressed
  | queuedClip
  deriving DecidableEq, Repr

/-- The day mark of an entry of today's plan, with its late flag and pass time (R74, R76). -/
structure DayMark where
  mark : Mark
  late : Bool
  pass : Option Stamp
  deriving DecidableEq, Repr

/-- A timetable entry with the pool slot it occupies (R64); `day` is present while its plan is today's plan. -/
structure Entry where
  slot : Nat
  time : Nat
  kind : EntryKind
  zones : ZoneSet
  day : Option DayMark
  deriving DecidableEq, Repr

/-- What governs a date: a plan, NONE (from the week map) or SILENT (from an exception) (R71). -/
inductive PlanRef where
  | plan (p : PlanNo)
  | none
  | silent
  deriving DecidableEq, Repr

/-- A row of the exception table (R69). -/
structure ExceptionRow where
  first : Nat
  last : Nat
  plan : PlanRef
  deriving DecidableEq, Repr

/-- The reference TT sends with a ring request or a clip request (R76). -/
structure EntryRef where
  plan : PlanNo
  slot : Nat
  pass : Stamp
  deriving DecidableEq, Repr

/-- TT's state. A pool slot is in use when an entry of some plan has it. -/
structure Timetable where
  plans : Vector (List Entry) 16
  week : Vector PlanRef 7
  exceptions : List ExceptionRow
  today : Option Nat
  todayPlan : Option PlanRef
  highWater : Option Nat
  deriving DecidableEq, Repr

/-! ## TA: zones and trunks (chapter 5) -/

structure Zone where
  enabled : Bool
  quiet : Option Stamp
  deriving DecidableEq, Repr

/-- Priority of a claim (R89); ALARM stands above them and is no claim's. -/
inductive ClaimPrio where
  | normal
  | ring
  | urgent
  | drill
  deriving DecidableEq, Repr

inductive Claimant where
  | ring (run : RunIx)
  | announce (id : Nat)
  | page (slot : PageSlot)
  | drill
  deriving DecidableEq, Repr

/-- The holder of a trunk, with its priority (section 5.3). -/
inductive Holder where
  | none
  | claimant (c : Claimant) (p : ClaimPrio)
  | alarm
  deriving DecidableEq, Repr

inductive Source where
  | silent
  | tg (g : GenNo)
  | player
  | mic (slot : PageSlot)
  deriving DecidableEq, Repr

/-- State of a row's latest stage. QUEUED records which command it is (R93). -/
inductive StagePhase where
  | placing
  | queued (serial : Nat)
  | confirmed
  deriving DecidableEq, Repr

/-- A row's latest stage. `owner` absent is RELEASE. -/
structure Stage where
  map : ZoneMap
  owner : Option Claimant
  phase : StagePhase
  deriving DecidableEq, Repr

/-- The map the next apply mark will carry; `release` names the releasing holder when it is a release's (R95, R96). -/
structure Awaited where
  map : ZoneMap
  release : Option Claimant
  deriving DecidableEq, Repr

/-- Settling (R97). MUTING records the MUTE it placed, or none while a full queue keeps it from being placed. -/
inductive Settling where
  | settled
  | awaiting
  | muting (serial : Option Nat)
  deriving DecidableEq, Repr

/-- A row of the trunk claim table (section 5.3). -/
structure Row where
  holder : Holder
  map : ZoneMap
  releasing : Bool
  source : Source
  stage : Option Stage
  awaited : Option Awaited
  applied : ZoneMap
  settling : Settling
  /-- MODEL's own: the holder's start barrier has fired here (R88: "whose barrier has fired") -/
  fired : Bool
  deriving DecidableEq, Repr

/-- An open start barrier (R94). -/
structure Barrier where
  claimant : Claimant
  source : Source
  members : BuildingSet
  deriving DecidableEq, Repr

structure Trunks where
  /-- zone b.z is at index 8 b + z -/
  zones : Vector Zone 64
  rows : Vector Row 8
  barriers : List Barrier
  deriving DecidableEq, Repr

/-! ## RS: patterns, generators and ring runs (chapter 6) -/

inductive PStep where
  | tone (tone duration : Nat)
  | gap (duration : Nat)
  deriving DecidableEq, Repr

inductive GenUser where
  | run (r : RunIx)
  | chime (slot : PageSlot)
  | drill
  deriving DecidableEq, Repr

inductive GenPhase where
  | armed
  | sounding
  | ended
  deriving DecidableEq, Repr

/-- An assigned generator (R104): its user, its copy of the pattern, the true time at which its first step began,
and the order in which generators were assigned (R106). -/
structure GenUse where
  user : GenUser
  phase : GenPhase
  steps : List PStep
  since : Nat
  order : Nat
  deriving DecidableEq, Repr

inductive RunState where
  | claiming
  | genWait
  | staging
  | playing
  | done
  deriving DecidableEq, Repr

inductive DropReason where
  | drill
  | alarm
  | failed
  | quiet
  | disabled
  | held
  | notStarted
  | preempted
  | stopped
  | generatorTaken
  | aborted
  | power
  | noGenerator
  deriving DecidableEq, Repr

/-- Per-building state of a run (R107). -/
inductive RunBuilding where
  | claiming
  | waiting
  | granted
  | staged
  | playing
  | done
  | dropped (reason : DropReason)
  deriving DecidableEq, Repr

inductive RunOrigin where
  | entry (ref : EntryRef)
  | ringNow
  deriving DecidableEq, Repr

inductive RunEnding where
  | finished
  | nothingGranted
  | deadline
  | waitListFull
  | allLost
  | generatorTaken
  | stopped
  | aborted
  | abortedPower
  deriving DecidableEq, Repr

inductive RingOutcome where
  | rung
  | partly
  | missed
  | suppressed
  deriving DecidableEq, Repr

/-- A ring run, active or DONE (R107). `sounded`: the buildings that reached PLAYING, which R115's outcome asks for.
A building not in the zone set has no state. -/
structure Run where
  state : RunState
  origin : RunOrigin
  pattern : Nat
  steps : List PStep
  zones : ZoneSet
  due : Option Stamp
  count : Nat
  window : Nat
  at_ : Vector (Option RunBuilding) 8
  sounded : BuildingSet
  gen : Option GenNo
  order : Nat
  ending : Option RunEnding
  outcome : Option RingOutcome
  endTime : Option Stamp
  released : BuildingSet
  deriving DecidableEq, Repr

structure Ring where
  /-- pattern p is at index p - 1; EMPTY is no steps -/
  patterns : Vector (List PStep) 32
  gens : Vector (Option GenUse) 4
  runs : Vector (Option Run) 12
  waitList : List RunIx
  startOrder : List RunIx
  /-- MODEL's own: the next place in the creation order -/
  nextOrder : Nat
  /-- MODEL's own: the next place in the order of assignment -/
  nextAssign : Nat
  /-- outcomes of runs ended by a RESTART, returned to TT when it ends (R117) -/
  heldOut : List (EntryRef × RingOutcome)
  deriving DecidableEq, Repr

/-! ## AM: announcements (chapter 7) -/

inductive PlayerState where
  | idle
  | staging
  | starting
  | playing
  | stopping
  deriving DecidableEq, Repr

inductive ReqOrigin where
  | host
  | entry (ref : EntryRef)
  | drill
  deriving DecidableEq, Repr

/-- Priority of a queued request (R122), lowest first. -/
inductive ReqPrio where
  | normal
  | urgent
  | drill
  deriving DecidableEq, Repr

/-- Per-building state of the PLAYING request (R122). -/
inductive ReqBuilding where
  | granted
  | playing
  | lostPreempted
  | lostFailed
  | outQuiet
  | outDisabled
  | outFailed
  deriving DecidableEq, Repr

structure AnnounceReq where
  id : Nat
  origin : ReqOrigin
  clip : Nat
  length : Nat
  zones : ZoneSet
  prio : ReqPrio
  notBefore : Option Stamp
  eligible : Bool
  count : Nat
  playing : Bool
  at_ : Vector (Option ReqBuilding) 8
  /-- MODEL's own: its place in the order of arrival, which tells it from a later request of the same id (R126) -/
  order : Nat
  deriving DecidableEq, Repr

inductive ReqOutcome where
  | delivered
  | partly
  | failed
  | timeout
  | preempted
  | expired
  | suppressed
  | cancelled
  | displaced
  | alarm
  | power
  | aborted
  deriving DecidableEq, Repr

/-- A finished record (R133). -/
structure FinishedRec where
  id : Nat
  origin : ReqOrigin
  clip : Nat
  prio : ReqPrio
  outcome : ReqOutcome
  delivered : BuildingSet
  endTime : Option Stamp
  deriving DecidableEq, Repr

/-- The strobe last sent on CSTART or CSTOP. -/
inductive Strobe where
  | none
  | start
  | stop
  deriving DecidableEq, Repr

structure Announcer where
  /-- clip c is at index c - 1; absent is undefined, else its length -/
  clips : Vector (Option Nat) 64
  queue : List AnnounceReq
  player : PlayerState
  nextId : Nat
  /-- MODEL's own: the next place in the order of arrival -/
  nextOrder : Nat
  released : List (Nat × BuildingSet)
  finished : List FinishedRec
  /-- outcomes of drill clips ended by a RESTART, told to DC when it ends (R135) -/
  heldOut : List (Nat × ReqOutcome)
  /-- the level of the CPLAY input -/
  cplay : Bool
  /-- the clip select lines: clip number less one -/
  select : Nat
  strobe : Strobe
  /-- true times at which the start window, the end limit and the stop window run out -/
  startBy : Option Nat
  endBy : Option Nat
  stopBy : Option Nat
  deriving DecidableEq, Repr

/-! ## PU: live paging (chapter 8) -/

inductive Trigger where
  | level
  | edge
  deriving DecidableEq, Repr

inductive PageState where
  | idle
  | waiting
  | chime
  | opened
  deriving DecidableEq, Repr

structure Page where
  configured : Bool
  zones : ZoneSet
  urgency : Urgency
  chimePattern : Option Nat
  trigger : Trigger
  state : PageState
  started : Bool
  held : BuildingSet
  chimeGen : Option GenNo
  waitCount : Nat
  talkCount : Nat
  lockout : Bool
  released : BuildingSet
  /-- PTT as seen -/
  seen : Bool
  /-- the level of the push-to-talk input -/
  level : Bool
  /-- when the new level began to hold, in true time (R138) -/
  since : Option Nat
  /-- MODEL's own: the place among the slots in the order of becoming WAITING (R142) -/
  waitOrder : Nat
  deriving DecidableEq, Repr

structure Pages where
  a : Page
  b : Page
  /-- MODEL's own: the next place in the order of becoming WAITING -/
  nextWait : Nat
  deriving DecidableEq, Repr

/-! ## DC: drills and the record store (chapter 9) -/

structure Script where
  preClip : Option Nat
  preDelay : Nat
  pattern : Nat
  evacuation : Nat
  clearLimit : Nat
  allClear : Option Nat
  deriving DecidableEq, Repr

/-- The scheduled-drill slot's plan (R149). -/
structure DrillPlan where
  script : Fin 4
  buildings : BuildingSet
  moment : Stamp
  deriving DecidableEq, Repr

inductive NotStarted where
  | alarm
  | active
  | notFound
  | outage
  deriving DecidableEq, Repr

inductive ScheduledResult where
  | none
  | started (record : Nat)
  | notStarted (reason : NotStarted)
  deriving DecidableEq, Repr

inductive DrillPhase where
  | pre
  | evac
  | muster
  | allClear
  deriving DecidableEq, Repr

inductive TrunkState where
  | none
  | claiming
  | granted
  | sounding
  | excluded
  | released
  deriving DecidableEq, Repr

inductive RecordOutcome where
  | complete
  | timeout
  | aborted
  | abortedPower
  | alarmOverride
  | resumed
  deriving DecidableEq, Repr

/-- The active drill (R148). `outcome` is fixed on entry to ALLCLEAR (R156). -/
structure Drill where
  script : Script
  buildings : BuildingSet
  record : Nat
  phase : DrillPhase
  count : Nat
  clip : Option Nat
  at_ : Vector TrunkState 8
  gen : Option GenNo
  genStarted : Bool
  outcome : Option RecordOutcome
  deriving DecidableEq, Repr

/-- Lamp upkeep of one building, of DC (R154) or of AH (R169): the wanted state (absent is NONE), the LAMP
outstanding by its serial, and whether the last enqueue was answered QUEUE FULL. -/
structure LampKeep where
  wanted : Option LampState
  outstanding : Option Nat
  full : Bool
  deriving DecidableEq, Repr

/-- One building's part of a record (R158). -/
structure RecordBuilding where
  mute : Option Stamp
  clear : Option Stamp
  elapsed : Option Nat
  deriving DecidableEq, Repr

inductive RecordKind where
  | drill (script : Fin 4)
  | alarm
  deriving DecidableEq, Repr

/-- A record of the store (R158). The outcome is absent while the record is open. -/
structure Record where
  number : Nat
  kind : RecordKind
  buildings : BuildingSet
  start : Option Stamp
  evacStart : Option Stamp
  at_ : Vector RecordBuilding 8
  activations : Nat
  lastActivation : Option Stamp
  lineQuiet : Option Stamp
  endTime : Option Stamp
  outcome : Option RecordOutcome
  read : Bool
  deriving DecidableEq, Repr

structure DrillControl where
  scripts : Vector (Option Script) 4
  slot : Option DrillPlan
  lastResult : ScheduledResult
  drill : Option Drill
  lamps : Vector LampKeep 8
  /-- the record store, oldest first -/
  records : List Record
  nextRecord : Nat
  deriving DecidableEq, Repr

/-! ## AH: the alarm hold (chapter 10) -/

structure AlarmHold where
  /-- the input state is ACTIVE -/
  active : Bool
  /-- the level of the FIRE input -/
  level : Bool
  /-- when the level being timed began, in true time (R163) -/
  timing : Option Nat
  /-- the hold is IN FORCE -/
  hold : Bool
  record : Option Nat
  lamps : Vector LampKeep 8
  deriving DecidableEq, Repr

/-! ## LP: the host link (chapter 11) -/

/-- The results of a reply (section 5.4 of 00_scope.md, R175). -/
inductive Result where
  | ok
  | range
  | conflict
  | full
  | notFound
  | refused
  | busy
  | noTime
  | unknown
  deriving DecidableEq, Repr

inductive BypassMode where
  | bypass
  | inOrder
  deriving DecidableEq, Repr

inductive StampMode where
  | first
  | last
  deriving DecidableEq, Repr

/-- The campus settings record (R177). -/
structure Settings where
  lateWindow : Nat
  bellWindow : Nat
  announceExpiry : Nat
  pageTalk : Nat
  pageWait : Nat
  retry : Vector Nat 8
  bypass : Vector BypassMode 8
  stampMode : StampMode
  deriving DecidableEq, Repr

/-- What a well-formed frame carries once its kind and body have been looked up (R175). `fixed` is a waiting TIME
SET whose result was fixed at the end of its frame (R174). -/
inductive Content where
  | request (r : Request)
  | unknownKind
  | badLength
  | fixed (result : Result)
  deriving DecidableEq, Repr

/-- A request that waits (R174). -/
structure Waiting where
  kind : Nat
  tag : Nat
  content : Content
  deriving DecidableEq, Repr

/-- A request in reply: its kind and tag, the result and the data of its reply, and whether a RESTART is taken when
the reply has gone (R174, R181). -/
structure Replying where
  kind : Nat
  tag : Nat
  result : Result
  data : List Byte
  restart : Bool
  deriving DecidableEq, Repr

structure Link where
  /-- the bytes of the frame in reception from the start byte on; absent is HUNTING -/
  rx : Option (List Byte)
  /-- when the last byte of the frame in reception arrived, in true time -/
  rxAt : Nat
  inReply : Option Replying
  waiting : Option Waiting
  mask : CondSet
  settings : Settings
  deriving DecidableEq, Repr

/-! ## Messages between blocks -/

/-- The blocks that take a trunk-free event (section 5.3). -/
inductive FreeTaker where
  | dc
  | rs
  | am
  | pu
  deriving DecidableEq, Repr

/-- One block's part of a second event. RS and AM are told what was there before the event began: a run made or a
request placed at the event is not counted at it (R111, R126). -/
inductive SecondPart where
  | quiet
  | tt
  | lc
  | ta
  | dc
  | rs (bornBefore : Nat)
  | am (bornBefore : Nat)
  | pu
  | ah
  deriving DecidableEq, Repr

/-- What one block hands to another inside a command: outcomes, reports, notices and events. -/
inductive Msg where
  | busStart (b : Building)
  | cmdOutcome (b : Building) (c : Command) (o : CmdOutcome)
  | driverOnline (b : Building) (addr : Nat) (latch : Polarity)
  | driverView (b : Building) (addr : Nat) (view : DriverView)
  | probeResult (b : Building) (addr : Nat) (result : ProbeResult) (latch : Option Polarity)
  | switchReport (b : Building) (active : ZoneMap)
  | switchLost (b : Building)
  | panelReport (toAlarm : Bool) (b : Building) (age : Option Nat) (lamp : LampState) (reply : Option Stamp)
  | applySent (b : Building)
  /-- the PREEMPTED notices of one claim, each to a holder for a building (R90) -/
  | preempted (notices : List (Claimant × Building))
  | lost (c : Claimant) (b : Building)
  | started (c : Claimant) (members : BuildingSet)
  | barrierCheck (c : Claimant)
  | trunkFree (taker : FreeTaker) (b : Building)
  | ringOutcome (ref : EntryRef) (o : RingOutcome)
  | chimeEnd (slot : PageSlot)
  | chimeTaken (slot : PageSlot)
  | clipOutcome (id : Nat) (o : ReqOutcome)
  | scan
  | second (part : SecondPart) (ev : SecondEvent)
  | stepTT (step : TimeStep)
  | stepLC (step : TimeStep)
  | ttDue (sec : Nat)
  | ttPass (slot : Nat) (late : Bool) (pass : Stamp)
  | ttSettle
  | lineSecond (line : LineNo) (ev : SecondEvent)
  | runReclaim (run : RunIx) (order : Nat)
  | pageReclaim (slot : PageSlot)
  deriving DecidableEq, Repr

/-! ## The whole -/

/-- Everything the blocks own but for time and the link: the part of the state in which messages pass between
blocks. -/
structure Dev where
  bus : Vector Bus 8
  lines : Vector (Option Line) 16
  tt : Timetable
  ta : Trunks
  rs : Ring
  am : Announcer
  pu : Pages
  dc : DrillControl
  ah : AlarmHold
  /-- the condition set (R178) -/
  conds : CondSet
  /-- MODEL's own: the next serial of a bus command -/
  serial : Nat
  /-- MODEL's own: how many free values have been drawn -/
  drawn : Nat
  /-- MODEL's own: messages between blocks not yet delivered (log entry 7); empty between commands -/
  agenda : List Msg
  deriving DecidableEq, Repr

/-- The PB-640, the stations on its buses and the levels on its inputs, with the commands that are waiting. -/
structure State where
  tb : Timebase
  link : Link
  dev : Dev
  /-- the commands that are waiting, first in, first out -/
  pending : List Instr
  deriving DecidableEq, Repr

/-! ## The values a COLD start gives -/

def Timebase.cold : Timebase :=
  { time := none, sub := 0, secLen := Config.ticksPerSecond, trim := 0, slot := none, supply := .main,
    stampCount := 0, stampStart := none, stampEnd := none, outageStart := none, outageShift := none,
    restart := none, vmain := true, qualifying := none, retained := true, resetn := false, clock := 0, vbak := true }

def Bus.cold : Bus :=
  { rows := [], queue := [], retries := [], wire := .idle, applyPending := false, alarm := false,
    drillFast := false, alarmFast := false, heldOut := [], field := [] }

def Timetable.cold : Timetable :=
  { plans := Vector.replicate 16 [], week := Vector.replicate 7 .none, exceptions := [], today := none,
    todayPlan := none, highWater := none }

def Row.cold : Row :=
  { holder := .none, map := 0, releasing := false, source := .silent, stage := none, awaited := none, applied := 0,
    settling := .settled, fired := false }

def Trunks.cold : Trunks :=
  { zones := Vector.replicate 64 { enabled := true, quiet := none }, rows := Vector.replicate 8 Row.cold,
    barriers := [] }

def Ring.cold : Ring :=
  { patterns := Vector.replicate 32 [], gens := Vector.replicate 4 none, runs := Vector.replicate 12 none,
    waitList := [], startOrder := [], nextOrder := 0, nextAssign := 0, heldOut := [] }

def Announcer.cold : Announcer :=
  { clips := Vector.replicate 64 none, queue := [], player := .idle, nextId := 1, nextOrder := 0, released := [], finished := [],
    heldOut := [], cplay := false, select := 0, strobe := .none, startBy := none, endBy := none, stopBy := none }

def Page.cold : Page :=
  { configured := false, zones := 0, urgency := .normal, chimePattern := none, trigger := .level, state := .idle,
    started := false, held := 0, chimeGen := none, waitCount := 0, talkCount := 0, lockout := false, released := 0,
    seen := false, level := false, since := none, waitOrder := 0 }

def LampKeep.cold : LampKeep := { wanted := none, outstanding := none, full := false }

def DrillControl.cold : DrillControl :=
  { scripts := Vector.replicate 4 none, slot := none, lastResult := .none, drill := none,
    lamps := Vector.replicate 8 LampKeep.cold, records := [], nextRecord := 1 }

def AlarmHold.cold : AlarmHold :=
  { active := false, level := false, timing := none, hold := false, record := none,
    lamps := Vector.replicate 8 LampKeep.cold }

/-- The defaults of the campus settings record (R177). -/
def Settings.cold : Settings :=
  { lateWindow := 30, bellWindow := 20, announceExpiry := 600, pageTalk := 120, pageWait := 5,
    retry := Vector.replicate 8 4, bypass := Vector.replicate 8 .bypass, stampMode := .last }

def Link.cold : Link :=
  { rx := none, rxAt := 0, inReply := none, waiting := none, mask := 0xFFFF, settings := Settings.cold }

/-- The blocks at a COLD start: COLD START is latched (R17, condition number 0). -/
def Dev.cold : Dev :=
  { bus := Vector.replicate 8 Bus.cold, lines := Vector.replicate 16 none, tt := Timetable.cold, ta := Trunks.cold,
    rs := Ring.cold, am := Announcer.cold, pu := { a := Page.cold, b := Page.cold, nextWait := 0 },
    dc := DrillControl.cold, ah := AlarmHold.cold, conds := 1, serial := 0, drawn := 0, agenda := [] }

/-- The machine right after reset: a COLD start has just been taken, every input is at its released level and no
command waits (log entry 20). -/
def State.reset : State :=
  { tb := Timebase.cold, link := Link.cold, dev := Dev.cold, pending := [] }

end Sys2Proof.Machine
end

