-- ==== Sys2Proof/Machine/Flags.lean ====
section
/-! DEFINITION. The condition set: the sixteen conditions with their numbers (R178) and the latch. -/

namespace Sys2Proof.Machine

/-- The conditions, in the order of their numbers (R178). -/
inductive Cond where
  | coldStart
  | powerRestored
  | shiftApplied
  | stationLost
  | stationReturned
  | lineFault
  | lineUnset
  | ringMissed
  | announceAbnormal
  | clipStoreFault
  | clipTimeout
  | drillEnded
  | alarm
  | recordOverwritten
  | linkError
  | linkOverrun
  deriving DecidableEq, Repr

/-- A condition's number (R178). -/
def condNumber : Cond → Nat
  | .coldStart => 0
  | .powerRestored => 1
  | .shiftApplied => 2
  | .stationLost => 3
  | .stationReturned => 4
  | .lineFault => 5
  | .lineUnset => 6
  | .ringMissed => 7
  | .announceAbnormal => 8
  | .clipStoreFault => 9
  | .clipTimeout => 10
  | .drillEnded => 11
  | .alarm => 12
  | .recordOverwritten => 13
  | .linkError => 14
  | .linkOverrun => 15

/-- The condition set that holds one condition. -/
def condBit (c : Cond) : CondSet := 1#16 <<< condNumber c

/-- Whether a condition is latched. -/
def condHas (s : CondSet) (c : Cond) : Bool := s.getLsbD (condNumber c)

/-- A cause adds its condition to the set; a condition already there is left as it is (R178). -/
def latch (c : Cond) (d : Dev) : Dev := { d with conds := d.conds ||| condBit c }

/-- CONDITIONS CLEAR: every named condition leaves the set (R178). -/
def unlatch (named : CondSet) (d : Dev) : Dev := { d with conds := d.conds &&& ~~~named }

/-- ATTN is low while a condition is in both the set and the mask, and is released on backup (R179). -/
def attnLow (s : State) : Bool :=
  s.tb.supply = .main && s.tb.retained && (s.dev.conds &&& s.link.mask) != 0

end Sys2Proof.Machine
end

