-- ==== Sys2Proof/Machine/Ops.lean ====
section
/-! DEFINITION. The operations every block shares: campus-time arithmetic (R1, R6), sets of buildings and zones
(00_scope.md, 5.3), reading and writing one place of a table, the messages between blocks, and what the blocks read
of the rest of the device while a command runs. -/

namespace Sys2Proof.Machine

/-! ## Campus time -/

/-- Seconds since day 0, second 0: the order of campus times, counted across dates. -/
def stampSeconds (t : Stamp) : Nat := t.day * Config.secondsPerDay + t.sec

/-- The campus time that many seconds after day 0, second 0. -/
def stampOfSeconds (n : Nat) : Stamp := { day := n / Config.secondsPerDay, sec := n % Config.secondsPerDay }

/-- `t` is at or before `u`. -/
def stampLe (t u : Stamp) : Bool := stampSeconds t ≤ stampSeconds u

/-- `t` is before `u`. -/
def stampLt (t u : Stamp) : Bool := stampSeconds t < stampSeconds u

/-- The later of two campus times. -/
def stampMax (t u : Stamp) : Stamp := if stampLt t u then u else t

/-- The weekday of a day number, Monday 0 to Sunday 6 (R1). -/
def weekday (day : Nat) : Fin 7 := ⟨(day + 5) % 7, Nat.mod_lt _ (by decide)⟩

/-- A second is a :59 second (R3). -/
def isLastOfMinute (sec : Nat) : Bool := sec % 60 == 59

/-- Campus time one second on by counting, with the wrap from 2099-12-31 to 2000-01-01 (R6). -/
def stampSucc (t : Stamp) : Stamp :=
  if t.sec < 86399 then { day := t.day, sec := t.sec + 1 }
  else if t.day < Config.lastDay then { day := t.day + 1, sec := 0 }
  else { day := 0, sec := 0 }

/-- The length in ticks of the second that campus time `t` labels; every second of INVALID time is a plain one (R3). -/
def secondLength (t : Option Stamp) (trim : Int) : Nat :=
  match t with
  | some u => if isLastOfMinute u.sec then ((Config.ticksPerSecond : Int) + trim).toNat else Config.ticksPerSecond
  | none => Config.ticksPerSecond

/-- The time of a press: the reply time less the press age, no earlier than `start` (R155, R167), as dates order them
(across the calendar's wrap log entries 36 and 62). -/
def pressTime (reply : Stamp) (age : Nat) (start : Stamp) : Stamp :=
  if (stampSeconds reply : Int) - age < stampSeconds start then start
  else stampOfSeconds (stampSeconds reply - age)

/-! ## Sets -/

/-- The eight buildings in ascending order. -/
def buildings : List Building := List.finRange 8

def bsHas (s : BuildingSet) (b : Building) : Bool := s.getLsbD b.1

def bsOne (b : Building) : BuildingSet := 1#8 <<< b.1

def bsAdd (s : BuildingSet) (b : Building) : BuildingSet := s ||| bsOne b

def bsRemove (s : BuildingSet) (b : Building) : BuildingSet := s &&& ~~~bsOne b

/-- The buildings that satisfy `p`. -/
def bsWhere (p : Building → Bool) : BuildingSet :=
  buildings.foldl (fun s b => if p b then bsAdd s b else s) 0

/-- The members of a set, ascending. -/
def bsList (s : BuildingSet) : List Building := buildings.filter (bsHas s)

/-- A building's part of a zone set. -/
def zoneMap (z : ZoneSet) (b : Building) : ZoneMap := z.extractLsb' (8 * b.1) 8

/-- The buildings that a zone set touches. -/
def zoneBuildings (z : ZoneSet) : BuildingSet := bsWhere fun b => zoneMap z b != 0

/-- Every zone of every building of a set. -/
def allZones (s : BuildingSet) : ZoneSet :=
  buildings.foldl (fun z b => if bsHas s b then z ||| (0xFF#64 <<< (8 * b.1)) else z) 0

/-- The index of zone b.z in the zone table. -/
def zoneIndex (b : Building) (z : Fin 8) : Fin 64 := ⟨8 * b.1 + z.1, by omega⟩

/-! ## Tables -/

/-- A table with one place rewritten. -/
def put {α : Type} {n : Nat} (v : Vector α n) (i : Fin n) (x : α) : Vector α n := v.set i.1 x i.2

/-- A table with every place rewritten. -/
def tabMap {α β : Type} {n : Nat} (f : α → β) (v : Vector α n) : Vector β n := Vector.ofFn fun i => f v[i]

def setBus (b : Building) (x : Bus) (d : Dev) : Dev := { d with bus := put d.bus b x }

def setLine (i : LineNo) (x : Option Line) (d : Dev) : Dev := { d with lines := put d.lines i x }

def setRow (b : Building) (x : Row) (d : Dev) : Dev := { d with ta := { d.ta with rows := put d.ta.rows b x } }

def setBarriers (x : List Barrier) (d : Dev) : Dev := { d with ta := { d.ta with barriers := x } }

def setGen (g : GenNo) (x : Option GenUse) (d : Dev) : Dev := { d with rs := { d.rs with gens := put d.rs.gens g x } }

def setRun (r : RunIx) (x : Option Run) (d : Dev) : Dev := { d with rs := { d.rs with runs := put d.rs.runs r x } }

def pageOf (d : Dev) : PageSlot → Page
  | .a => d.pu.a
  | .b => d.pu.b

def setPage (k : PageSlot) (x : Page) (d : Dev) : Dev :=
  match k with
  | .a => { d with pu := { d.pu with a := x } }
  | .b => { d with pu := { d.pu with b := x } }

def setDrill (x : Option Drill) (d : Dev) : Dev := { d with dc := { d.dc with drill := x } }

def setDcLamp (b : Building) (x : LampKeep) (d : Dev) : Dev :=
  { d with dc := { d.dc with lamps := put d.dc.lamps b x } }

def setAhLamp (b : Building) (x : LampKeep) (d : Dev) : Dev :=
  { d with ah := { d.ah with lamps := put d.ah.lamps b x } }

/-! ## Messages -/

/-- One block hands something to another. It is delivered after what the sending block is doing, and with all it
brings about before anything that was already waiting (log entry 7). -/
def push (m : Msg) (d : Dev) : Dev := { d with agenda := d.agenda ++ [m] }

def pushAll (ms : List Msg) (d : Dev) : Dev := { d with agenda := d.agenda ++ ms }

/-- What the blocks read of TB and LP while a command runs: campus time, true time, the campus settings, and
whether the device runs (on the main supply, outside RESTART). -/
structure Env where
  now : Option Stamp
  clock : Nat
  settings : Settings
  running : Bool

/-- The device runs: main supply, retained state valid, no RESTART in progress (R13, R17, R18). -/
def isRunning (tb : Timebase) : Bool :=
  tb.supply = .main && tb.retained && tb.restart.isNone

def envOf (s : State) : Env :=
  { now := s.tb.time, clock := s.tb.clock, settings := s.link.settings, running := isRunning s.tb }

end Sys2Proof.Machine
end

