-- ==== Sys2Proof/Machine/Bus.lean ====
section
/-! DEFINITION. BC0 to BC7 and the field stations (chapter 2): placing commands (R31), the choice at a boundary
(R32), the stations' answers (R22 to R25), success, failure and loss (R28, R34 to R37), polls (R29, R30), alarm mode
(R38, R39) and the supply events (R40, R41). -/

namespace Sys2Proof.Machine

def tenSeconds : Nat := 10 * Config.ticksPerSecond
def thirtySeconds : Nat := 30 * Config.ticksPerSecond
def twoSeconds : Nat := 2 * Config.ticksPerSecond
def oneSecond : Nat := Config.ticksPerSecond

/-! ## Rows and field stations -/

/-- The row of the station at an address, if it is configured. -/
def rowAt (bus : Bus) (addr : Nat) : Option Station := bus.rows.find? fun r => r.addr == addr

/-- The first configured row of a kind: the building's zone switch or its marshal panel (section 2.3). -/
def rowOfKind (bus : Bus) (k : StationKind) : Option Station := bus.rows.find? fun r => r.kind == k

def modStation (bus : Bus) (addr : Nat) (f : Station → Station) : Bus :=
  { bus with rows := bus.rows.map fun r => if r.addr == addr then f r else r }

/-- A field station as it is when it is first powered: lamp OFF, latch clear (R25), no measurement made (R24); with
empty maps and its relay at NEG (log entry 12). -/
def freshField (addr : Nat) : FieldStation :=
  { addr := addr, active := 0, staged := 0, latch := .neg, probe := .none, press := none, lamp := .off }

/-- A station's own state as its bus is powered again: a driver has made no measurement (R24), a panel's lamp is OFF and
its latch clear (R25). A relay keeps its polarity (R23), and a zone switch its maps (R97; log entry 34). -/
def powerUpField (f : FieldStation) : FieldStation := { f with probe := .none, press := none, lamp := .off }

/-- Every station of a bus is powered up. -/
def powerUpBus (bus : Bus) : Bus := { bus with field := bus.field.map powerUpField }

/-- The buses are powered again, with every station on them. -/
def powerUp (d : Dev) : Dev := { d with bus := tabMap powerUpBus d.bus }

def fieldAt (bus : Bus) (addr : Nat) : FieldStation :=
  (bus.field.find? fun f => f.addr == addr).getD (freshField addr)

def setField (bus : Bus) (f : FieldStation) : Bus :=
  if bus.field.any fun g => g.addr == f.addr then
    { bus with field := bus.field.map fun g => if g.addr == f.addr then f else g }
  else { bus with field := bus.field ++ [f] }

/-- The kind a command needs (section 2.2). -/
def opKind : BusOp → StationKind
  | .stage _ => .zoneSwitch
  | .mute => .zoneSwitch
  | .impulse _ _ => .lineDriver
  | .probe => .lineDriver
  | .lamp _ => .marshalPanel

/-! ## What a station does when it takes a command -/

/-- A station takes a command: its own state afterwards, and the answer of an IMPULSE (R22 to R25). `shorted` is
what a line driver's current check finds. -/
def stationTake (op : BusOp) (shorted : Bool) (f : FieldStation) : FieldStation × Option ImpulseAnswer :=
  match op with
  | .stage m => ({ f with staged := m }, none)
  | .mute => ({ f with active := 0, staged := 0 }, none)
  | .lamp l => ({ f with lamp := l }, none)
  | .probe => ({ f with probe := .running }, none)
  | .impulse p _ =>
    let g := if f.probe = .running then { f with probe := .none } else f
    if g.latch = p then (g, some .already)
    else if shorted then (g, some .short)
    else ({ g with latch := p }, some .driven)

/-- The load estimate that a POLL answers: 0 unless the status is OK (R24). -/
def probeLoad : ProbeStatus → Nat
  | .ok n => n
  | _ => 0

/-- The press that a marshal panel's latch holds: the first, be it made while a row named the panel's address or before
(R25; log entry 45). -/
def panelPress (bus : Bus) (addr : Nat) : Option Nat :=
  match (fieldAt bus addr).press, (fieldAt bus 0).press with
  | some t, some u => some (min t u)
  | some t, none => some t
  | none, u => u

/-- A station has answered a poll: a marshal panel's latch is clear (R25). -/
def pollTaken (bus : Bus) (addr : Nat) : Bus :=
  let bus1 := setField bus { fieldAt bus addr with press := none }
  if (rowAt bus addr).any fun r => r.kind == .marshalPanel then
    { bus1 with field := bus1.field.map fun g => if g.addr = 0 then { g with press := none } else g }
  else bus1

/-- The press age a panel answers, in whole seconds up to 250, absent when no press is latched (R25). -/
def pressAge (f : FieldStation) (clock : Nat) : Option Nat :=
  f.press.map fun t => min 250 ((clock - t) / Config.ticksPerSecond)

/-! ## Placing commands -/

/-- The answer to an enqueue (R31); ACCEPTED carries the command's serial. -/
inductive EnqAnswer where
  | accepted (serial : Nat)
  | notConfigured
  | stationOffline
  | notAccepted
  | queueFull
  deriving DecidableEq, Repr

def queueCap (bus : Bus) : Nat := if bus.alarm then Config.queueCapAlarm else Config.queueCapNormal

def isStage : BusOp → Bool
  | .stage _ => true
  | _ => false

/-- What the controller answers to a command offered for its queue, in the order of R31's table. -/
def enqueueCheck (bus : Bus) (addr : Nat) (op : BusOp) (serial : Nat) : EnqAnswer :=
  match rowAt bus addr with
  | none => .notConfigured
  | some r =>
    if r.kind ≠ opKind op then .notConfigured
    else if r.state = .offline then .stationOffline
    else if bus.alarm && isStage op then .notAccepted
    else if queueCap bus ≤ bus.queue.length then .queueFull
    else .accepted serial

/-- A block places a command (R31): only ACCEPTED places an entry, at the tail. -/
def enqueue (b : Building) (addr : Nat) (op : BusOp) (owner : Owner) (d : Dev) : EnqAnswer × Dev :=
  let bus := d.bus[b]
  match enqueueCheck bus addr op d.serial with
  | .accepted n =>
    (.accepted n,
      push (.busStart b)
        (setBus b { bus with queue := bus.queue ++ [{ addr := addr, op := op, owner := owner, serial := n }] }
          { d with serial := d.serial + 1 }))
  | a => (a, d)

/-- TA requests an apply mark (R33); a request while one is pending joins it. -/
def requestApply (b : Building) (d : Dev) : Dev :=
  push (.busStart b) (setBus b { d.bus[b] with applyPending := true } d)

/-! ## The choice at a boundary -/

/-- The line driver at an address is still driving its impulse (R23). -/
def isDriving (bus : Bus) (addr : Nat) (clock : Nat) : Bool :=
  match rowAt bus addr with
  | some r => r.drivingUntil.any fun t => clock < t
  | none => false

def isCommandFor (addr : Nat) (t : Transaction) : Bool :=
  match t.what with
  | .command _ => t.addr == addr
  | .poll _ => false

def isCommand (t : Transaction) : Bool :=
  match t.what with
  | .command _ => true
  | .poll _ => false

/-- The bypass mode lets a due poll go ahead (R32). -/
def pollMayGo (bus : Bus) (mode : BypassMode) (addr : Nat) : Bool :=
  match mode with
  | .bypass => !(bus.queue.any fun c => c.addr == addr) && !(bus.retries.any (isCommandFor addr))
  | .inOrder => bus.queue.isEmpty && !(bus.retries.any isCommand)

/-- Of two due polls, the one that fell due first, then the one of the lower address, goes first (R32). -/
def earlierPoll (r s : Station) : Bool :=
  match r.dueAt, s.dueAt with
  | some t, some u => t < u || (t == u && r.addr ≤ s.addr)
  | some _, none => true
  | none, _ => false

/-- The due poll that goes next, if any may go. -/
def nextPoll (e : Env) (bus : Bus) (mode : BypassMode) : Option Station :=
  let may := bus.rows.filter fun r =>
    r.dueAt.isSome && !isDriving bus r.addr e.clock && pollMayGo bus mode r.addr
  may.foldl (fun best r =>
    match best with
    | none => some r
    | some s => if earlierPoll r s then some r else some s) none

/-- The bus after the controller has started what R32 lets go first: the apply mark, a retry, a due poll, the head
of the queue. A retry that waits for its driver holds the queue behind it. -/
def startChoice (e : Env) (b : Building) (bus : Bus) : Bus :=
  if bus.applyPending then { bus with applyPending := false, wire := .applyMark }
  else
    match bus.retries.find? fun t => !isDriving bus t.addr e.clock with
    | some t => { bus with wire := .attempt t, retries := bus.retries.erase t }
    | none =>
      match nextPoll e bus e.settings.bypass[b] with
      | some r =>
        modStation
          { bus with wire := .attempt { addr := r.addr, what := .poll r.probeDue, orphan := false, carried := false } }
          r.addr fun r => { r with dueAt := none, probeDue := false }
      | none =>
        match bus.queue with
        | [] => bus
        | c :: rest =>
          if bus.retries.isEmpty && !isDriving bus c.addr e.clock then
            { bus with
              queue := rest
              wire := .attempt { addr := c.addr, what := .command c, orphan := false, carried := false } }
          else bus

/-- At a boundary, and whenever the bus is idle and a candidate appears, the controller starts the next thing that
is ready (R32). Nothing starts on backup or while a RESTART is in progress (log entry 18). -/
def startBus (e : Env) (b : Building) (d : Dev) : Dev :=
  if e.running && d.bus[b].wire = .idle then setBus b (startChoice e b d.bus[b]) d else d

/-! ## Outcomes -/

/-- A command's outcome goes to its owner (R34). -/
def tellOutcome (b : Building) (c : Command) (o : CmdOutcome) (d : Dev) : Dev := push (.cmdOutcome b c o) d

/-- The outcome of a carried attempt goes to its owner when the RESTART ends, or at once if it has ended (R41). -/
def tellCarried (e : Env) (b : Building) (c : Command) (o : CmdOutcome) (d : Dev) : Dev :=
  if e.running then tellOutcome b c o d
  else setBus b { d.bus[b] with heldOut := d.bus[b].heldOut ++ [(c, o)] } d

/-- A station's row after a successful attempt of a command (R28, R23, R29): UNKNOWN becomes ONLINE without a
report, an OFFLINE station stays OFFLINE with its count, a driver that is DRIVEN is driving for the width, and a
PROBE starts the probe poll's wait. -/
def heardByCommand (e : Env) (op : BusOp) (ans : Option ImpulseAnswer) (r : Station) : Station :=
  let r1 : Station :=
    { r with
      state := if r.state = .unknown then .online else r.state
      unreported := r.unreported || r.state = .unknown
      fails := if r.state = .offline then r.fails else 0
      lastHeard := e.now }
  match op, ans with
  | .impulse _ w, some .driven => { r1 with drivingUntil := some (e.clock + Config.msTicks w) }
  | .probe, _ =>
    { r1 with
      probeAt := some (e.clock + twoSeconds)
      probeRuns := 0
      dueAt := if r1.probeDue then none else r1.dueAt
      probeDue := false }
  | _, _ => r1

/-- When the next poll of an ONLINE station falls due after a poll that succeeded (R29). -/
def nextPollAt (bus : Bus) (e : Env) (k : StationKind) : Option Nat :=
  match k with
  | .marshalPanel => some (e.clock + (if bus.drillFast || bus.alarmFast then twoSeconds else thirtySeconds))
  | _ => none

/-- A station's row after a successful poll (R28, R29). A probe poll answered RUNNING, unless five further polls
have already been, falls due again 1 s later (R30). -/
def heardByPoll (e : Env) (bus : Bus) (probe : Bool) (f : FieldStation) (r : Station) : Station :=
  let r1 : Station :=
    { r with
      state := .online
      fails := 0
      lastHeard := e.now
      unreported := false
      lastPoll := some e.clock
      pollAt := nextPollAt bus e r.kind }
  if probe && f.probe = .running && r.probeRuns < 5 then
    { r1 with probeAt := some (e.clock + oneSecond), probeRuns := r.probeRuns + 1 }
  else r1

/-- A probe poll's answer, or NO RESULT, as LC stores it (R30, R54). RUNNING delivers nothing until five further
polls have answered it. -/
def probeFinding (f : FieldStation) (runs : Nat) : Option ProbeResult :=
  match f.probe with
  | .none => some .none
  | .running => if runs < 5 then none else some .none
  | .ok n => some (.ok n)
  | .lineOpen => some .lineOpen
  | .short => some .short

/-- The answer of a successful poll goes to the owner of the kind (R37), and a probe poll's finding to LC (R30). The latch
that a probe poll reads goes with its result; a probe poll answered RUNNING has no result, so its reading is not delivered
(the model's choice, log entry 46). A marshal panel's answer goes to DC and to AH whether it is a report or a poll result,
since they take both alike; that DC takes it first is the model's choice (log entry 53). -/
def deliverPoll (e : Env) (b : Building) (r : Station) (f : FieldStation) (probe : Bool) (d : Dev) : Dev :=
  let fresh := r.state ≠ .online || r.unreported
  let d1 := if r.state = .offline then latch .stationReturned d else d
  match r.kind with
  | .zoneSwitch => if fresh then push (.switchReport b f.active) d1 else d1
  | .lineDriver =>
    let d2 := if fresh then push (.driverOnline b r.addr f.latch) d1 else d1
    if probe then
      match probeFinding f r.probeRuns with
      | some res => push (.probeResult b r.addr res (some f.latch)) d2
      | none => d2
    else d2
  | .marshalPanel =>
    pushAll [.panelReport false b (pressAge f e.clock) f.lamp e.now,
      .panelReport true b (pressAge f e.clock) f.lamp e.now] d1

/-- The attempt on a bus reaches its end without a failure (R20). A poll has no outcome to return (R34), so one whose
station has been removed meanwhile delivers nothing (the model's choice, log entry 49), and so does one that a RESTART
carries (log entry 21). A PROBE that a RESTART carries and that ends DONE starts no probe poll: R30 has the poll
follow a PROBE that ended DONE, R41 does not say whether a carried one counts, and that it does not is the model's
choice (log entry 61). -/
def attemptSucceeds (e : Env) (b : Building) (shorted : Bool) (d : Dev) : Dev :=
  let bus := d.bus[b]
  match bus.wire with
  | .attempt t =>
    let f := fieldAt bus t.addr
    match t.what with
    | .command c =>
      let taken := stationTake c.op shorted f
      let bus1 := { setField bus taken.1 with wire := .idle }
      let out := CmdOutcome.done taken.2 e.now
      if t.carried then
        let drive (r : Station) : Station :=
          match c.op, taken.2 with
          | .impulse _ w, some .driven => { r with drivingUntil := some (e.clock + Config.msTicks w) }
          | _, _ => r
        push (.busStart b) (tellCarried e b c out (setBus b (modStation bus1 t.addr drive) d))
      else if t.orphan then push (.busStart b) (tellOutcome b c out (setBus b bus1 d))
      else
        push (.busStart b)
          (tellOutcome b c out (setBus b (modStation bus1 t.addr (heardByCommand e c.op taken.2)) d))
    | .poll probe =>
      let bus1 := { pollTaken bus t.addr with wire := .idle }
      if t.carried || t.orphan then push (.busStart b) (setBus b bus1 d)
      else
        match rowAt bus t.addr with
        | some r =>
          push (.busStart b)
            (deliverPoll e b r { f with press := panelPress bus t.addr } probe
              (setBus b (modStation bus1 t.addr (heardByPoll e bus1 probe f)) d))
        | none => push (.busStart b) (setBus b bus1 d)
  | _ => d

/-- The station's loss reaches the owner of its kind (section 2.7). DC and AH have no rule for the loss of a panel. -/
def tellLost (b : Building) (r : Station) (view : DriverView) (d : Dev) : Dev :=
  match r.kind with
  | .zoneSwitch => push (.switchLost b) d
  | .lineDriver => push (.driverView b r.addr view) d
  | .marshalPanel => d

/-- A pending probe poll is dropped with NO RESULT (R30), which carries no latch, whatever an earlier poll of the probe has
read (the model's choice, log entry 46). `r` is the row before the loss. -/
def dropProbe (b : Building) (r : Station) (d : Dev) : Dev :=
  if r.probeAt.isSome || r.probeDue then push (.probeResult b r.addr .none none) d else d

def discardAll (b : Building) (cs : List Command) (reason : DiscardReason) (d : Dev) : Dev :=
  pushAll (cs.map fun c => .cmdOutcome b c (.discarded reason)) d

/-- The retries of a transaction are exhausted (R36). -/
def exhaust (e : Env) (b : Building) (t : Transaction) (r : Station) (d : Dev) : Dev :=
  let bus := d.bus[b]
  let gone := bus.queue.filter fun c => c.addr == t.addr
  let bus1 := modStation { bus with queue := bus.queue.filter fun c => !(c.addr == t.addr) } t.addr fun r =>
    { r with
      state := .offline, unreported := false, pollAt := some (e.clock + tenSeconds), dueAt := none, probeAt := none,
      probeDue := false, lastPoll := match t.what with | .poll _ => some e.clock | .command _ => r.lastPoll }
  let d1 := setBus b bus1 d
  let d2 := match t.what with
    | .command c => tellOutcome b c .failed d1
    | .poll _ => d1
  let inFlight := match t.what with
    | .command _ => false
    | .poll probe => probe
  let d3 := dropProbe b { r with probeDue := r.probeDue || inFlight } (discardAll b gone .stationLost d2)
  latch .stationLost (tellLost b r .offline d3)

/-- The retry rule for a failed attempt with a configured station (R35, R29). -/
def retryOrExhaust (e : Env) (b : Building) (t : Transaction) (r : Station) (d : Dev) : Dev :=
  let bus := d.bus[b]
  if r.state = .offline then
    match t.what with
    | .poll _ =>
      setBus b (modStation bus t.addr fun r =>
        { r with pollAt := some (e.clock + tenSeconds), lastPoll := some e.clock }) d
    | .command _ => exhaust e b t r d
  else
    let fails := r.fails + 1
    let d1 := setBus b (modStation bus t.addr fun r => { r with fails := fails }) d
    if fails ≤ e.settings.retry[b] then
      setBus b { d1.bus[b] with retries := d1.bus[b].retries ++ [t] } d1
    else exhaust e b t { r with fails := fails } d1

/-- The attempt on a bus fails (R20): the retry rules of section 2.6, or for a removed station (R26) and a carried
attempt (R41) the outcome FAILED without a retry. -/
def attemptFails (e : Env) (b : Building) (d : Dev) : Dev :=
  let bus := d.bus[b]
  match bus.wire with
  | .attempt t =>
    let d1 := setBus b { bus with wire := .idle } d
    let d2 :=
      if t.carried then
        match t.what with
        | .command c => tellCarried e b c .failed d1
        | .poll _ => d1
      else
        match t.orphan, rowAt bus t.addr with
        | false, some r => retryOrExhaust e b t r d1
        | _, _ =>
          match t.what with
          | .command c => tellOutcome b c .failed d1
          | .poll _ => d1
    push (.busStart b) d2
  | _ => d

/-- The station holds busy beyond 200 ms. It has acknowledged every byte the master sent, so it has taken the
command (R20, R23). -/
def attemptBusy (e : Env) (b : Building) (shorted : Bool) (d : Dev) : Dev :=
  let bus := d.bus[b]
  match bus.wire with
  | .attempt t =>
    match t.what with
    | .command c => attemptFails e b (setBus b (setField bus (stationTake c.op shorted (fieldAt bus t.addr)).1) d)
    | .poll _ => attemptFails e b d
  | _ => d

/-- Every zone switch on the bus copies its staged map to its active map (R21, R22). -/
def fieldApply (bus : Bus) : Bus :=
  { bus with field := bus.field.map fun f =>
      if bus.rows.any fun r => r.addr == f.addr && r.kind != .zoneSwitch then f else { f with active := f.staged } }

/-- The apply mark ends, and the controller tells TA "apply sent" (R33). -/
def applyEnds (b : Building) (d : Dev) : Dev :=
  match d.bus[b].wire with
  | .applyMark =>
    pushAll [.applySent b, .busStart b] (setBus b { fieldApply d.bus[b] with wire := .idle } d)
  | _ => d

/-! ## Polls -/

/-- The scheduled poll, or the probe poll, of a station falls due and merges into one already due (R29). Where both
wait, the earlier falls due. -/
def pollFallsDue (e : Env) (r : Station) : Station :=
  match r.probeAt, r.pollAt with
  | some t, some u =>
    if t ≤ u then { r with probeAt := none, probeDue := true, dueAt := some (r.dueAt.getD e.clock) }
    else { r with pollAt := none, dueAt := some (r.dueAt.getD e.clock) }
  | some _, none => { r with probeAt := none, probeDue := true, dueAt := some (r.dueAt.getD e.clock) }
  | none, some _ => { r with pollAt := none, dueAt := some (r.dueAt.getD e.clock) }
  | none, none => r

def pollBecomesDue (e : Env) (b : Building) (addr : Nat) (d : Dev) : Dev :=
  push (.busStart b) (setBus b (modStation d.bus[b] addr (pollFallsDue e)) d)

/-- A driver's driving-until time passes (R23). -/
def drivingEnds (b : Building) (addr : Nat) (d : Dev) : Dev :=
  push (.busStart b) (setBus b (modStation d.bus[b] addr fun r => { r with drivingUntil := none }) d)

/-- An ONLINE panel's next poll after a fast flag of its bus has been set or both have become clear (R29). -/
def repacePoll (e : Env) (bus : Bus) (r : Station) : Station :=
  match r.kind, r.state, r.pollAt with
  | .marshalPanel, .online, some t =>
    let last := r.lastPoll.getD e.clock
    let at_ := last + (if bus.drillFast || bus.alarmFast then twoSeconds else thirtySeconds)
    if bus.drillFast || bus.alarmFast then
      if at_ < t then
        if at_ ≤ e.clock then { r with pollAt := none, dueAt := some (r.dueAt.getD e.clock) }
        else { r with pollAt := some at_ }
      else r
    else if at_ ≤ e.clock then { r with pollAt := none, dueAt := some (r.dueAt.getD e.clock) }
    else { r with pollAt := some at_ }
  | _, _, _ => r

/-- DC sets or clears the drill-fast flag of a bus (R29). -/
def setDrillFast (e : Env) (b : Building) (v : Bool) (d : Dev) : Dev :=
  let bus := d.bus[b]
  if bus.drillFast = v then d
  else
    let bus1 := { bus with drillFast := v }
    push (.busStart b) (setBus b { bus1 with rows := bus1.rows.map (repacePoll e bus1) } d)

/-- AH sets or clears the alarm-fast flag of a bus (R29). -/
def setAlarmFast (e : Env) (b : Building) (v : Bool) (d : Dev) : Dev :=
  let bus := d.bus[b]
  if bus.alarmFast = v then d
  else
    let bus1 := { bus with alarmFast := v }
    push (.busStart b) (setBus b { bus1 with rows := bus1.rows.map (repacePoll e bus1) } d)

/-! ## Configuring stations -/

/-- A new row: UNKNOWN, count 0, last-heard time absent, first poll due at once (R26). -/
def newStation (e : Env) (addr : Nat) (k : StationKind) : Station :=
  { addr := addr, kind := k, state := .unknown, fails := 0, lastHeard := none, unreported := false, pollAt := none,
    dueAt := some e.clock, probeAt := none, probeDue := false, probeRuns := 0, lastPoll := none, drivingUntil := none }

def kindLimit : StationKind → Nat
  | .zoneSwitch => 1
  | .lineDriver => 2
  | .marshalPanel => 1

def addStation (e : Env) (b : Building) (addr : Nat) (k : StationKind) (d : Dev) : Dev :=
  push (.busStart b) (setBus b { d.bus[b] with rows := d.bus[b].rows ++ [newStation e addr k] } d)

/-- A station's row is emptied (R26): its queued commands end DISCARDED REMOVED, its polls are dropped, a
transaction on the wires runs to the end of its attempt without a retry, one between attempts ends FAILED, and the
owner of the kind is told. That a driver's driving-until time goes with its row is the model's choice (log entry 52). -/
def removeStation (b : Building) (r : Station) (d : Dev) : Dev :=
  let bus := d.bus[b]
  let gone := bus.queue.filter fun c => c.addr == r.addr
  let cut := bus.retries.filter fun t => t.addr == r.addr
  let bus1 : Bus :=
    { bus with
      rows := bus.rows.filter fun s => !(s.addr == r.addr)
      queue := bus.queue.filter fun c => !(c.addr == r.addr)
      retries := bus.retries.filter fun t => !(t.addr == r.addr)
      wire := match bus.wire with
        | .attempt t => if t.addr == r.addr then .attempt { t with orphan := true } else .attempt t
        | w => w }
  let failed := cut.filterMap fun t =>
    match t.what with
    | .command c => some (Msg.cmdOutcome b c .failed)
    | .poll _ => none
  push (.busStart b)
    (tellLost b r .absent (dropProbe b r (pushAll failed (discardAll b gone .removed (setBus b bus1 d)))))

/-! ## Alarm mode -/

/-- MUTE to the zone switch and LAMP ON to the marshal panel, where configured, whatever their state and outside
R31's checks (R38 steps 2 and 3), on a queue that has just been emptied (R38 step 1) or that the outage has left
empty (R40). Answers the serial of the LAMP ON. -/
def alarmPlacements (b : Building) (d : Dev) : Option Nat × Dev :=
  let bus := d.bus[b]
  let mute : List Command :=
    match rowOfKind bus .zoneSwitch with
    | some r => [{ addr := r.addr, op := .mute, owner := .ah, serial := d.serial }]
    | none => []
  let lamp : List Command :=
    match rowOfKind bus .marshalPanel with
    | some r => [{ addr := r.addr, op := .lamp .on, owner := .ah, serial := d.serial + 1 }]
    | none => []
  ((lamp.head?).map fun c => c.serial,
    push (.busStart b)
      (setBus b { bus with queue := mute ++ lamp } { d with serial := d.serial + 2 }))

/-- AH orders alarm mode on a bus (R38). The outcomes of the discarded commands reach their owners once the order
has been carried out (log entry 7). Answers the serial of the LAMP ON it placed. -/
def orderAlarmMode (b : Building) (d : Dev) : Option Nat × Dev :=
  let bus := d.bus[b]
  if bus.alarm then (none, d)
  else
    alarmPlacements b (discardAll b bus.queue .alarmMode (setBus b { bus with queue := [], alarm := true } d))

/-- AH orders a bus back to NORMAL mode; the queue keeps its places (R39). -/
def orderNormalMode (b : Building) (d : Dev) : Dev := setBus b { d.bus[b] with alarm := false } d

/-! ## Supply events and RESTART -/

/-- The station end of a transaction that the loss of power cuts off after the station had taken it (R40). -/
def fieldCutOff (bus : Bus) : Bus :=
  match bus.wire with
  | .attempt t =>
    match t.what with
    | .command c => setField bus (stationTake c.op false (fieldAt bus t.addr)).1
    | .poll _ => bus
  | .applyMark => fieldApply bus
  | .idle => bus

def dropPolls (r : Station) : Station :=
  { r with pollAt := none, dueAt := none, probeAt := none, probeDue := false, drivingUntil := none }

/-- Entry to backup (R40). -/
def busBackup (taken : BuildingSet) (b : Building) (d : Dev) : Dev :=
  let bus := if bsHas taken b then fieldCutOff d.bus[b] else d.bus[b]
  setBus b
    { bus with
      queue := [], retries := [], wire := .idle, applyPending := false, heldOut := [], rows := bus.rows.map dropPolls } d

/-- A station set UNKNOWN with count 0 and its first poll due at once, its last-heard time kept (R40, R41). -/
def resetStation (e : Env) (r : Station) : Station :=
  { newStation e r.addr r.kind with lastHeard := r.lastHeard }

/-- RESTORE (R40). Answers the serial of the LAMP ON that a bus in alarm mode places. -/
def busRestore (e : Env) (b : Building) (d : Dev) : Option Nat × Dev :=
  let bus := d.bus[b]
  let d1 := push (.busStart b) (setBus b { bus with rows := bus.rows.map (resetStation e) } d)
  if bus.alarm then alarmPlacements b d1 else (none, d1)

/-- The attempt on the wires is carried to its end; an apply mark simply ends (R41). -/
def carryWire : Wire → Wire
  | .attempt t => .attempt { t with carried := true }
  | w => w

/-- RESTART begins (R41). -/
def busRestart (e : Env) (b : Building) (d : Dev) : Dev :=
  let bus := d.bus[b]
  setBus b
    { bus with
      queue := [], retries := [], wire := carryWire bus.wire, applyPending := false, alarm := false,
      drillFast := false, alarmFast := false, rows := bus.rows.map (resetStation e) } d

/-- RESTART ends: held outcomes go to their owners (R41) and the bus may start. -/
def busRestartEnds (b : Building) (d : Dev) : Dev :=
  let bus := d.bus[b]
  push (.busStart b)
    (pushAll (bus.heldOut.map fun p => .cmdOutcome b p.1 p.2) (setBus b { bus with heldOut := [] } d))

/-- VMAIN falls in a RESTART: an attempt still carried is abandoned without an outcome (R13). -/
def busAbandon (b : Building) (d : Dev) : Dev := setBus b { d.bus[b] with wire := .idle } d

end Sys2Proof.Machine
end

