-- ==== Sys2Proof/Machine/Trunks.lean ====
section
/-! DEFINITION. TA: zones and filtering (R84 to R87), claims (R89 to R91), stages (R92, R93), start barriers (R94,
R95), release (R96), settling (R97), loss (R98), the alarm hold (R99) and the supply events (R100). -/

namespace Sys2Proof.Machine

/-! ## Zones -/

/-- The zones of a building that satisfy `p`, as a map. -/
def zonesWhere (d : Dev) (b : Building) (p : Zone → Bool) : ZoneMap :=
  (List.finRange 8).foldl (fun m z => if p d.ta.zones[zoneIndex b z] then m ||| (1#8 <<< z.1) else m) 0

def enabledMap (d : Dev) (b : Building) : ZoneMap := zonesWhere d b fun z => z.enabled

def quietMap (d : Dev) (b : Building) : ZoneMap := zonesWhere d b fun z => z.quiet.isSome

/-- Every zone of a set rewritten. -/
def modZones (zones : ZoneSet) (f : Zone → Zone) (d : Dev) : Dev :=
  let table := Vector.ofFn fun i : Fin 64 => if zones.getLsbD i.1 then f d.ta.zones[i] else d.ta.zones[i]
  { d with ta := { d.ta with zones := table } }

/-- A quiet-until earlier than the new time is removed (R86). Campus times are compared as dates: one of the calendar's
last day is later than every time after the wrap (the model's choice, log entry 51). -/
def endQuiet (now : Stamp) (z : Zone) : Zone :=
  match z.quiet with
  | some t => if stampLt t now then { z with quiet := none } else z
  | none => z

/-- Each quiet-until is compared with the new time (R86). -/
def endQuiets (now : Stamp) (d : Dev) : Dev :=
  { d with ta := { d.ta with zones := tabMap (endQuiet now) d.ta.zones } }

/-! ## Filtering (R87) -/

inductive Filtered where
  | kept (map : ZoneMap)
  | quiet
  | disabled
  deriving DecidableEq, Repr

/-- The part of a building's map that a claim of this priority may use (R87). -/
def filterMap (d : Dev) (prio : ClaimPrio) (b : Building) (m : ZoneMap) : Filtered :=
  let enabled := m &&& enabledMap d b
  let kept :=
    match prio with
    | .normal => enabled &&& ~~~quietMap d b
    | .ring => enabled &&& ~~~quietMap d b
    | .urgent => enabled
    | .drill => enabled
  if kept ≠ 0 then .kept kept else if enabled = 0 then .disabled else .quiet

/-! ## Deciding a claim (R89) -/

inductive HeldReason where
  | priority
  | drill
  | alarm
  | settling
  deriving DecidableEq, Repr

inductive ClaimAnswer where
  | granted
  | wait
  | held (reason : HeldReason)
  | failed
  | excludedQuiet
  | excludedDisabled
  deriving DecidableEq, Repr

def prioRank : ClaimPrio → Nat
  | .normal => 0
  | .ring => 1
  | .urgent => 2
  | .drill => 3

/-- The building's zone switch, if one is configured. -/
def switchOf (d : Dev) (b : Building) : Option Station := rowOfKind d.bus[b] .zoneSwitch

/-- A zone switch is configured and not OFFLINE. -/
def switchReachable (d : Dev) (b : Building) : Bool :=
  match switchOf d b with
  | some r => r.state != .offline
  | none => false

/-- The decision for one building, in the order of R89's table. -/
def decideClaim (d : Dev) (c : Claimant) (prio : ClaimPrio) (atDeadline : Bool) (b : Building) : ClaimAnswer :=
  let row := d.ta.rows[b]
  if !switchReachable d b then .failed
  else
    match row.holder with
    | .alarm => .held .alarm
    | .none => if row.settling ≠ .settled then .held .settling else .granted
    | .claimant h hp =>
      if row.settling ≠ .settled then .held .settling
      else if h = c then .granted
      else if hp = .drill ∧ (prio = .ring ∨ prio = .normal) then .held .drill
      else if prio = .ring ∧ hp = .normal ∧ atDeadline = false then .wait
      else if prioRank hp < prioRank prio then .granted
      else .held .priority

/-! ## Barriers -/

def barrierOf (d : Dev) (c : Claimant) : Option Barrier := d.ta.barriers.find? fun x => x.claimant == c

def dropBarrier (c : Claimant) (d : Dev) : Dev := setBarriers (d.ta.barriers.filter fun x => !(x.claimant == c)) d

/-- A building is taken out of a claimant's open barrier (R94). -/
def quitBarrier (c : Claimant) (b : Building) (d : Dev) : Dev :=
  setBarriers (d.ta.barriers.map fun y =>
    if y.claimant == c then { y with members := bsRemove y.members b } else y) d

/-- A building leaves a claimant's open barrier, which is then checked (R94). -/
def leaveBarrier (c : Claimant) (b : Building) (d : Dev) : Dev :=
  match barrierOf d c with
  | some x => if bsHas x.members b then push (.barrierCheck c) (quitBarrier c b d) else d
  | none => d

/-- After a claim, the barriers that lost a member by it are checked (R94), when every notice of the claim is on its way
(R90 step 1; log entry 23). -/
def checkBereft (before after : Dev) : Dev :=
  pushAll ((before.ta.barriers.filter fun x => !after.ta.barriers.contains x).map fun x => .barrierCheck x.claimant)
    after

/-! ## Loss (R98) -/

/-- A row whose holder, map, stage and source are gone. -/
def emptyRow (row : Row) : Row :=
  { row with
    holder := .none, map := 0, releasing := false, source := .silent, stage := none, awaited := none, fired := false }

/-- A building is lost to its holder (R98 steps 1 and 2). A row held by ALARM keeps it. -/
def loseBuilding (b : Building) (d : Dev) : Dev :=
  let row := d.ta.rows[b]
  match row.holder with
  | .alarm => setRow b { row with source := .silent, stage := none, awaited := none } d
  | .none => setRow b (emptyRow row) d
  | .claimant c _ =>
    let d1 := setRow b (emptyRow row) (push (.lost c b) d)
    if row.releasing then d1 else leaveBarrier c b d1

/-- STATION LOST or removal of a building's zone switch (R98 step 3). -/
def switchGone (b : Building) (d : Dev) : Dev :=
  let d1 := loseBuilding b d
  setRow b { d1.ta.rows[b] with settling := .awaiting } d1

/-! ## Stages (R92, R93) -/

/-- Places the row's latest stage on the bus, or tries again while it is PLACING (R92). -/
def tryStage (b : Building) (d : Dev) : Dev :=
  match d.ta.rows[b].stage with
  | some st =>
    match st.phase, switchOf d b with
    | .placing, some r =>
      match enqueue b r.addr (.stage st.map) .ta d with
      | (.accepted n, d1) => setRow b { d1.ta.rows[b] with stage := some { st with phase := .queued n } } d1
      | (.queueFull, d1) => d1
      | (_, d1) => loseBuilding b d1
    | .placing, none => loseBuilding b d
    | _, _ => d
  | none => d

/-- A new latest stage replaces the row's, whatever its state (R92). -/
def placeStage (b : Building) (m : ZoneMap) (owner : Option Claimant) (d : Dev) : Dev :=
  tryStage b (setRow b { d.ta.rows[b] with stage := some { map := m, owner := owner, phase := .placing } } d)

/-! ## Claims (R90, R91) -/

/-- A building is granted: the barrier of its old holder, unless that was releasing, loses the building, the row takes the
claimant, and its STAGE is placed (R90). The old holder is told PREEMPTED, and the barrier checked, when the claim is done
(`tellRobbed`, `checkBereft`). By line 4 of R89 a claimant's own row is unchanged; by line 2 no claim is granted against
ALARM. -/
def grantBuilding (c : Claimant) (prio : ClaimPrio) (b : Building) (m : ZoneMap) (d : Dev) : Dev :=
  let row := d.ta.rows[b]
  let take (d : Dev) : Dev :=
    placeStage b m (some c)
      (setRow b { d.ta.rows[b] with holder := .claimant c prio, map := m, releasing := false, fired := false } d)
  match row.holder with
  | .claimant h _ =>
    if h = c then d
    else if row.releasing then take d
    else take (quitBarrier h b d)
  | .none => take d
  | .alarm => d

/-- The filtered map and the answer for one building of a claim, nothing yet granted. -/
def answerFor (d : Dev) (c : Claimant) (prio : ClaimPrio) (atDeadline : Bool) (zones : ZoneSet) (b : Building) :
    ZoneMap × ClaimAnswer :=
  match filterMap d prio b (zoneMap zones b) with
  | .kept m => (m, decideClaim d c prio atDeadline b)
  | .quiet => (0, .excludedQuiet)
  | .disabled => (0, .excludedDisabled)

/-- The answers of a claim, one for each building it names. -/
abbrev Answers := List (Building × ClaimAnswer)

/-- The holders that a claim with these answers takes a building from, of those in `d`: a releasing one is not told
(R90 step 1). -/
def robbed (c : Claimant) (d : Dev) (as : Answers) : List (Claimant × Building) :=
  as.filterMap fun p =>
    match p.2, d.ta.rows[p.1].holder with
    | .granted, .claimant h _ => if h = c ∨ d.ta.rows[p.1].releasing = true then none else some (h, p.1)
    | _, _ => none

/-- The PREEMPTED notices of a claim go out as one: every holder takes its own before anything that one of them brings
about (R90 step 1). -/
def tellRobbed (c : Claimant) (before : Dev) (as : Answers) (after : Dev) : Dev :=
  match robbed c before as with
  | [] => after
  | l => push (.preempted l) after

/-- The buildings of a claim in SINGLE mode: each decided, and granted, on its own (R90). They are taken by ascending
building number, and so are those of a set and of a release (the model's choice, log entry 50). -/
def claimEach (c : Claimant) (prio : ClaimPrio) (atDeadline : Bool) (zones : ZoneSet) :
    List Building → Dev → Answers × Dev
  | [], d => ([], d)
  | b :: rest, d =>
    let (m, a) := answerFor d c prio atDeadline zones b
    let d1 := if a = .granted then grantBuilding c prio b m d else d
    let (as, d2) := claimEach c prio atDeadline zones rest d1
    ((b, a) :: as, d2)

/-- A claim in SINGLE mode, with the barriers that lose a member by it (R90, R94). -/
def claimSingle (c : Claimant) (prio : ClaimPrio) (atDeadline : Bool) (zones : ZoneSet) (which : List Building)
    (d : Dev) : Answers × Dev :=
  let (as, d1) := claimEach c prio atDeadline zones which d
  (as, checkBereft d (tellRobbed c d as d1))

/-- What a claim in SET mode is answered as a whole (R91). -/
inductive SetAnswer where
  | granted
  | held
  | noneLeft
  deriving DecidableEq, Repr

def isBlocking : ClaimAnswer → Bool
  | .wait => true
  | .held _ => true
  | _ => false

/-- Every building answered GRANTED is granted, in ascending order (the model's choice, log entry 50). -/
def grantAll (c : Claimant) (prio : ClaimPrio) : List (Building × ZoneMap × ClaimAnswer) → Dev → Dev
  | [], d => d
  | (b, m, a) :: rest, d => grantAll c prio rest (if a = .granted then grantBuilding c prio b m d else d)

/-- A claim in SET mode: all remaining buildings together or none (R91). The answer HELD lists the blocking buildings
and the left-out ones; a building that was only decided GRANTED has no answer then. -/
def claimSet (c : Claimant) (prio : ClaimPrio) (zones : ZoneSet) (d : Dev) : SetAnswer × Answers × Dev :=
  let decided := (bsList (zoneBuildings zones)).map fun b => (b, answerFor d c prio false zones b)
  let answers := decided.map fun p => (p.1, p.2.2)
  if answers.any fun p => isBlocking p.2 then (.held, answers.filter fun p => p.2 ≠ .granted, d)
  else if answers.any fun p => p.2 = .granted then
    (.granted, answers, checkBereft d (tellRobbed c d answers (grantAll c prio decided d)))
  else (.noneLeft, answers, d)

/-- The buildings an answer list grants. -/
def grantedSet (as : Answers) : BuildingSet :=
  bsWhere fun b => as.any fun p => p.1 == b && p.2 = .granted

def answerOf (as : Answers) (b : Building) : Option ClaimAnswer :=
  (as.find? fun p => p.1 == b).map fun p => p.2

/-! ## Applying (R94, R95) -/

/-- The claimant holds the building and is not releasing it. -/
def holdsFirmly (d : Dev) (c : Claimant) (b : Building) : Bool :=
  match d.ta.rows[b].holder with
  | .claimant h _ => h == c && !d.ta.rows[b].releasing
  | _ => false

/-- A claimant asks TA to apply a building set with a source: its barrier is opened or extended, and checked (R94). -/
def applyBuildings (c : Claimant) (set : BuildingSet) (src : Source) (d : Dev) : Dev :=
  let members := bsWhere fun b => bsHas set b && holdsFirmly d c b
  let d1 :=
    match barrierOf d c with
    | some _ =>
      setBarriers (d.ta.barriers.map fun y =>
        if y.claimant == c then { y with members := y.members ||| members, source := src } else y) d
    | none => setBarriers (d.ta.barriers ++ [{ claimant := c, source := src, members := members }]) d
  push (.barrierCheck c) d1

def stageReady (d : Dev) (c : Claimant) (b : Building) : Bool :=
  match d.ta.rows[b].stage with
  | some st => st.owner == some c && st.phase == .confirmed
  | none => false

/-- One member of a firing barrier: source set, map awaited, apply mark requested (R95 step 2). -/
def fireMember (src : Source) (b : Building) (d : Dev) : Dev :=
  match d.ta.rows[b].stage with
  | some st =>
    requestApply b
      (setRow b { d.ta.rows[b] with source := src, awaited := some { map := st.map, release := none }, fired := true } d)
  | none => d

def loseAll : List Building → Dev → Dev
  | [], d => d
  | b :: rest, d => loseAll rest (loseBuilding b d)

def fireAll (src : Source) : List Building → Dev → Dev
  | [], d => d
  | b :: rest, d => fireAll src rest (fireMember src b d)

/-- TA checks a claimant's barrier: an empty one closes with STARTED {}, one whose members are all confirmed fires
(R94, R95). -/
def checkBarrier (c : Claimant) (d : Dev) : Dev :=
  match barrierOf d c with
  | none => d
  | some x =>
    if x.members = 0 then push (.started c 0) (dropBarrier c d)
    else if (bsList x.members).all (stageReady d c) then
      let gone := (bsList x.members).filter fun b => !switchReachable d b
      let left := (bsList x.members).filter (switchReachable d)
      push (.started c (bsWhere fun b => left.contains b)) (fireAll x.source left (loseAll gone (dropBarrier c d)))
    else d

/-- The buildings of a set whose source a holder may change: it holds them, is not releasing them, and its barrier has
fired there (R88). -/
def changeable (d : Dev) (c : Claimant) (set : BuildingSet) : BuildingSet :=
  bsWhere fun b => bsHas set b && holdsFirmly d c b && d.ta.rows[b].fired

/-- A holder asks for another source on a set of buildings (R88): those it may change take it at once, the others are left
as they were, and the holder is told which were changed. -/
def changeSource (c : Claimant) (set : BuildingSet) (src : Source) (d : Dev) : BuildingSet × Dev :=
  let changed := changeable d c set
  let rows := Vector.ofFn fun b : Building =>
    if bsHas changed b then { d.ta.rows[b] with source := src } else d.ta.rows[b]
  (changed, { d with ta := { d.ta with rows := rows } })

/-! ## Release (R96) -/

def releaseOne (c : Claimant) (b : Building) (d : Dev) : Dev :=
  if holdsFirmly d c b then
    placeStage b 0 none
      (leaveBarrier c b (setRow b { d.ta.rows[b] with source := .silent, releasing := true } d))
  else d

def releaseList (c : Claimant) : List Building → Dev → Dev
  | [], d => d
  | b :: rest, d => releaseList c rest (releaseOne c b d)

/-- A holder releases the buildings of a set (R96), by ascending building number (the model's choice, log entry 50); one it
does not hold is not affected. Its barrier is checked when all have left it (the model's choice, log entry 23). -/
def releaseSet (c : Claimant) (set : BuildingSet) (d : Dev) : Dev := releaseList c (bsList set) d

/-- The trunk-free event of a building goes to DC, RS, AM and PU in that order (section 5.3). -/
def trunkFree (b : Building) (d : Dev) : Dev :=
  pushAll [.trunkFree .dc b, .trunkFree .rs b, .trunkFree .am b, .trunkFree .pu b] d

/-- "Apply sent" for a bus: the awaited map becomes the applied map, and the release it was for completes (R95, R96).
The completion leaves the row's latest stage as it is, {} of RELEASE and CONFIRMED: R96 does not name it among what it
clears. -/
def takeApplySent (b : Building) (d : Dev) : Dev :=
  let row := d.ta.rows[b]
  match row.awaited with
  | none => d
  | some w =>
    let d1 := setRow b { row with applied := w.map, awaited := none } d
    match w.release, row.holder with
    | some c, .claimant h _ =>
      if h = c ∧ row.releasing then trunkFree b (setRow b { emptyRow row with stage := row.stage, applied := 0 } d1) else d1
    | _, _ => d1

/-- A STAGE outcome, taken only if it is for the very command recorded as the latest stage (R93). -/
def takeStageOutcome (b : Building) (c : Command) (o : CmdOutcome) (d : Dev) : Dev :=
  let row := d.ta.rows[b]
  match row.stage with
  | none => d
  | some st =>
    if st.phase = .queued c.serial then
      match o with
      | .done _ _ =>
        let d1 := setRow b { row with stage := some { st with phase := .confirmed } } d
        match st.owner, row.holder with
        | some h, _ => push (.barrierCheck h) d1
        | none, .claimant h _ =>
          requestApply b
            (setRow b { d1.ta.rows[b] with awaited := some { map := 0, release := some h } } d1)
        | none, _ => d1
      | .failed => loseBuilding b d
      | .discarded .stationLost => loseBuilding b d
      | .discarded .removed => loseBuilding b d
      | .discarded .alarmMode => setRow b { row with stage := none } d
    else d

/-! ## Settling (R97) -/

/-- TA places MUTE on the building's zone switch, and the row becomes MUTING; an offline or absent switch leaves it
AWAITING REPORT (R97). -/
def placeMute (b : Building) (d : Dev) : Dev :=
  let fallBack (d : Dev) : Dev := setRow b { d.ta.rows[b] with settling := .awaiting } d
  match switchOf d b with
  | none => fallBack d
  | some r =>
    match enqueue b r.addr .mute .ta d with
    | (.accepted n, d1) => setRow b { d1.ta.rows[b] with settling := .muting (some n) } d1
    | (.queueFull, d1) => setRow b { d1.ta.rows[b] with settling := .muting none } d1
    | (_, d1) => fallBack d1

/-- A row becomes SETTLED; with holder NONE the trunk-free event follows (R97). -/
def settleRow (b : Building) (d : Dev) : Dev :=
  let d1 := setRow b { d.ta.rows[b] with applied := 0, settling := .settled } d
  if d.ta.rows[b].holder = .none then trunkFree b d1 else d1

/-- A report of a zone switch's maps reaches TA (R97). -/
def takeSwitchReport (b : Building) (active : ZoneMap) (d : Dev) : Dev :=
  let d1 := setRow b { d.ta.rows[b] with applied := active } d
  match d.ta.rows[b].settling with
  | .awaiting => if active = 0 then settleRow b d1 else placeMute b d1
  | _ => d1

/-- The outcome of a MUTE that TA placed, while the row is MUTING by that command (R97). Where ALARM RESUME has placed a
second MUTE behind one that is still out (R99), the outcome of the later one alone settles the row (the model's choice, log
entry 54). -/
def takeMuteOutcome (b : Building) (c : Command) (o : CmdOutcome) (d : Dev) : Dev :=
  if d.ta.rows[b].settling = .muting (some c.serial) then
    match o with
    | .done _ _ => settleRow b d
    | _ => setRow b { d.ta.rows[b] with settling := .awaiting } d
  else d

/-- The outcome of a command of TA's. -/
def takeTaOutcome (b : Building) (c : Command) (o : CmdOutcome) (d : Dev) : Dev :=
  match c.op with
  | .stage _ => takeStageOutcome b c o d
  | .mute => takeMuteOutcome b c o d
  | _ => d

/-- TA's part of a second event but for the quiets: it places again what a full queue refused (R92, R97). -/
def taSecondList : List Building → Dev → Dev
  | [], d => d
  | b :: rest, d =>
    let d1 := tryStage b d
    taSecondList rest (if d1.ta.rows[b].settling = .muting none then placeMute b d1 else d1)

def taSecond (d : Dev) : Dev := taSecondList buildings d

/-- A zone switch is configured in a building: the row awaits its report (R97). -/
def switchConfigured (b : Building) (d : Dev) : Dev := setRow b { d.ta.rows[b] with settling := .awaiting } d

/-! ## The alarm hold (R99) and the supply events (R100) -/

/-- AH orders TA to force the trunks (R99). -/
def forceTrunks (d : Dev) : Dev :=
  let rows := Vector.ofFn fun b : Building =>
    if (switchOf d b).isSome then
      { d.ta.rows[b] with
        holder := .alarm, map := 0, source := .silent, releasing := false, stage := none, awaited := none,
        applied := 0, fired := false }
    else d.ta.rows[b]
  { d with ta := { d.ta with barriers := [], rows := rows } }

def freeList : List Building → Dev → Dev
  | [], d => d
  | b :: rest, d =>
    freeList rest
      (if d.ta.rows[b].holder = .alarm then placeMute b (setRow b { d.ta.rows[b] with holder := .none } d) else d)

/-- AH orders TA to free the trunks at ALARM RESUME (R99). -/
def freeTrunks (d : Dev) : Dev := freeList buildings d

def taBackupRow (row : Row) : Row :=
  match row.holder with
  | .alarm => { row with source := .silent, stage := none, awaited := none, fired := false }
  | _ => emptyRow row

/-- Entry to backup (R100). -/
def taBackup (d : Dev) : Dev :=
  { d with ta := { d.ta with barriers := [], rows := tabMap taBackupRow d.ta.rows } }

/-- Every row with a zone switch configured awaits a report. -/
def awaitAll (d : Dev) : Dev :=
  let rows := Vector.ofFn fun b : Building =>
    if (switchOf d b).isSome then { d.ta.rows[b] with settling := .awaiting } else d.ta.rows[b]
  { d with ta := { d.ta with rows := rows } }

/-- RESTORE (R100, R86). -/
def taRestore (restoreTime : Option Stamp) (d : Dev) : Dev :=
  let d1 := match restoreTime with
    | some t => endQuiets t d
    | none => d
  let d2 := awaitAll d1
  { d2 with ta := { d2.ta with rows := tabMap (fun r => { r with source := .silent }) d2.ta.rows } }

/-- RESTART (R100). -/
def taRestart (d : Dev) : Dev :=
  awaitAll { d with ta := { d.ta with barriers := [], rows := tabMap emptyRow d.ta.rows } }

/-- Trunk b carries a claimant's row of this priority whose holder, applied or awaited map has a zone of the set
(R85 check 3). -/
def quietBusy (d : Dev) (zones : ZoneSet) (b : Building) : Bool :=
  let row := d.ta.rows[b]
  match row.holder with
  | .claimant _ .ring =>
    (zoneMap zones b &&& (row.map ||| row.applied ||| (row.awaited.map fun w => w.map).getD 0)) != 0
  | .claimant _ .normal =>
    (zoneMap zones b &&& (row.map ||| row.applied ||| (row.awaited.map fun w => w.map).getD 0)) != 0
  | _ => false

end Sys2Proof.Machine
end

