-- ==== Sys2Proof/Machine/Ring.lean ====
section
/-! DEFINITION. RS: tone generators (R104 to R106), ring runs from their creation to their outcome (R107 to R116),
and what ends them all (R117). -/

namespace Sys2Proof.Machine

/-! ## Patterns and generators -/

def stepDuration : PStep → Nat
  | .tone _ n => n
  | .gap n => n

/-- A pattern's play length in steps of 100 ms (R102). -/
def playLength (steps : List PStep) : Nat := (steps.map stepDuration).sum

/-- The library's pattern of a number 1 to 32; another number has none. -/
def patternOf (d : Dev) (n : Nat) : List PStep := d.rs.patterns.toList.getD (n - 1) []

def generators : List GenNo := List.finRange 4

/-- The lowest-numbered IDLE generator. -/
def idleGen (d : Dev) : Option GenNo := generators.find? fun g => d.rs.gens[g].isNone

/-- A generator is assigned, ARMED, with a copy of its user's pattern (R104). -/
def assignGen (g : GenNo) (user : GenUser) (steps : List PStep) (d : Dev) : Dev :=
  setGen g (some { user := user, phase := .armed, steps := steps, since := 0, order := d.rs.nextAssign })
    { d with rs := { d.rs with nextAssign := d.rs.nextAssign + 1 } }

/-- RS starts a generator at its first step (R104). -/
def startGen (e : Env) (g : GenNo) (d : Dev) : Dev :=
  match d.rs.gens[g] with
  | some u => setGen g (some { u with phase := .sounding, since := e.clock }) d
  | none => d

/-- The number of steps that have run out some ticks after the first began, given the steps still to look at and the
time before them in steps of 100 ms: a step begins where the previous one ends (R104). -/
def stepsOver (elapsed : Nat) : List PStep → Nat → Nat
  | [], _ => 0
  | s :: rest, before =>
    if elapsed < Config.msTicks ((before + stepDuration s) * 100) then 0
    else stepsOver elapsed rest (before + stepDuration s) + 1

/-- The tone that a generator's user sounds on it: a TONE step drives its tone; ARMED, ENDED and a GAP step are silence
(R104). -/
def genTone (clock : Nat) (u : GenUse) : Option Nat :=
  match u.phase with
  | .sounding =>
    match u.steps[stepsOver (clock - u.since) u.steps 0]? with
    | some (.tone t _) => some t
    | _ => none
  | _ => none

/-- The tone that a generator puts out, none for silence; an IDLE generator is silent (R104). -/
def genOutput (clock : Nat) (d : Dev) (g : GenNo) : Option Nat := (d.rs.gens[g]).bind (genTone clock)

/-- What a building trunk carries: no signal, a generator's tone, the message store's output, or a microphone. -/
inductive Signal where
  | silence
  | tone (n : Nat)
  | player
  | mic (slot : PageSlot)
  deriving DecidableEq, Repr

/-- What the crosspoint puts on a building trunk (R88): its row's source, which TA has at SILENT on backup. A generator's
output goes to every trunk whose source it is (R104). -/
def trunkSignal (clock : Nat) (d : Dev) (b : Building) : Signal :=
  match d.ta.rows[b].source with
  | .silent => .silence
  | .tg g =>
    match genOutput clock d g with
    | some n => .tone n
    | none => .silence
  | .player => .player
  | .mic k => .mic k

/-! ## Runs -/

def runIxs : List RunIx := List.finRange 12

def isActive (run : Run) : Bool := run.state != .done

/-- A slot may be given to a new run: FREE, or DONE with an empty released set (R107). -/
def slotFree (d : Dev) (r : RunIx) : Bool :=
  match d.rs.runs[r] with
  | none => true
  | some run => run.state == .done && run.released == 0

def modRun (r : RunIx) (f : Run → Run) (d : Dev) : Dev :=
  match d.rs.runs[r] with
  | some run => setRun r (some (f run)) d
  | none => d

/-- Every slot's record rewritten. -/
def modRuns (f : Run → Run) (d : Dev) : Dev :=
  { d with rs := { d.rs with runs := tabMap (fun o => o.map f) d.rs.runs } }

/-- A building leaves every released set (R107). -/
def runsForget (b : Building) (d : Dev) : Dev :=
  modRuns (fun run => { run with released := bsRemove run.released b }) d

def stateAt (run : Run) (b : Building) : Option RunBuilding := run.at_[b]

/-- The buildings of a run whose state satisfies `p`. -/
def runWhere (run : Run) (p : RunBuilding → Bool) : BuildingSet := bsWhere fun b => (stateAt run b).any p

def isWanting : RunBuilding → Bool
  | .claiming => true
  | .waiting => true
  | _ => false

def isGranted : RunBuilding → Bool
  | .granted => true
  | _ => false

/-- GRANTED, STAGED or PLAYING: the run holds the building. -/
def isHolding : RunBuilding → Bool
  | .granted => true
  | .staged => true
  | .playing => true
  | _ => false

/-- Every building's state rewritten. -/
def mapBuildings (f : Building → RunBuilding → RunBuilding) (run : Run) : Run :=
  { run with at_ := Vector.ofFn fun b => (run.at_[b]).map (f b) }

/-! ### Ending a run (R115) -/

/-- The reason that goes with an ending (R115 steps 1 and 2). -/
def endingReason : RunEnding → Option DropReason
  | .finished => none
  | .nothingGranted => none
  | .allLost => none
  | .deadline => some .held
  | .waitListFull => some .noGenerator
  | .generatorTaken => some .generatorTaken
  | .stopped => some .stopped
  | .aborted => some .aborted
  | .abortedPower => some .power

/-- A building's state once the run has ended (R115 steps 1 and 2). -/
def settledBuilding (ending : RunEnding) (s : RunBuilding) : RunBuilding :=
  match s with
  | .playing =>
    if ending = .finished then .done
    else match endingReason ending with
      | some r => .dropped r
      | none => s
  | .granted => match endingReason ending with
    | some r => .dropped r
    | none => s
  | .staged => match endingReason ending with
    | some r => .dropped r
    | none => s
  | .claiming => match endingReason ending with
    | some r => .dropped r
    | none => s
  | .waiting => match endingReason ending with
    | some r => .dropped r
    | none => s
  | _ => s

/-- A building counts as excluded (R115). -/
def isExcluded (sounded : Bool) : RunBuilding → Bool
  | .dropped .quiet => true
  | .dropped .disabled => true
  | .dropped .drill => true
  | .dropped .alarm => true
  | .dropped .stopped => !sounded
  | _ => false

/-- The outcome that a run's settled buildings show (R115's table). -/
def workOutcome (run : Run) : RingOutcome :=
  let every (p : Building → RunBuilding → Bool) : Bool := buildings.all fun b =>
    match stateAt run b with
    | some s => p b s
    | none => true
  if run.sounded = 0 then
    if every fun b s => isExcluded (bsHas run.sounded b) s then .suppressed else .missed
  else
    if every fun b s => isExcluded (bsHas run.sounded b) s || s == .done then .rung else .partly

/-- The outcome at entry to backup and at RESTART (R117). -/
def powerOutcome (run : Run) : RingOutcome := if run.sounded = 0 then .missed else .partly

/-- A generator is given to a run, which goes to STAGING: RS asks TA to apply what the run has GRANTED, with the
generator as source (R105, R112, R113). -/
def stageRun (r : RunIx) (g : GenNo) (d : Dev) : Dev :=
  match d.rs.runs[r] with
  | none => d
  | some run =>
    let granted := runWhere run isGranted
    let run1 := mapBuildings (fun _ s => if s = .granted then .staged else s)
      { run with state := .staging, gen := some g }
    applyBuildings (.ring r) granted (.tg g) (assignGen g (.run r) run.steps (setRun r (some run1) d))

/-- A generator is freed: it goes to the head of the wait list, or becomes IDLE (R105). -/
def freeGen (g : GenNo) (d : Dev) : Dev :=
  match d.rs.waitList with
  | [] => setGen g none d
  | r :: rest => stageRun r g (setGen g none { d with rs := { d.rs with waitList := rest } })

/-- How RS carries out an end: whether the buildings are released, whether the generator is given back, whether TT
is told now, later (a RESTART in progress) or not at all, and an outcome other than R115's table. -/
structure EndMode where
  release : Bool
  giveBack : Bool
  tell : Bool
  later : Bool
  outcome : Option RingOutcome

/-- An ordinary end. -/
def plainEnd : EndMode := { release := true, giveBack := true, tell := true, later := false, outcome := none }

/-- A run ends (R115). Answers its outcome. -/
def endRun (e : Env) (r : RunIx) (ending : RunEnding) (m : EndMode) (d : Dev) : RingOutcome × Dev :=
  match d.rs.runs[r] with
  | none => (.missed, d)
  | some run =>
    let holding := runWhere run isHolding
    let settled := mapBuildings (fun _ s => settledBuilding ending s) run
    let outcome := m.outcome.getD (workOutcome settled)
    let summary : Run :=
      { settled with
        state := .done, gen := none, ending := some ending, outcome := some outcome, endTime := e.now,
        released := if m.release then holding else 0 }
    let d1 := if m.release then releaseSet (.ring r) holding d else d
    let d2 : Dev :=
      { d1 with rs := { d1.rs with
          waitList := d1.rs.waitList.filter fun x => !(x == r)
          startOrder := d1.rs.startOrder.filter fun x => !(x == r) } }
    let d3 := setRun r (some summary) d2
    let d4 := match run.gen with
      | some g => if m.giveBack then freeGen g d3 else d3
      | none => d3
    let d5 := match run.origin with
      | .entry ref =>
        if m.later then { d4 with rs := { d4.rs with heldOut := d4.rs.heldOut ++ [(ref, outcome)] } }
        else if m.tell then push (.ringOutcome ref outcome) d4 else d4
      | .ringNow => d4
    (outcome, d5)

/-- A run ends in the ordinary way. -/
def finishRun (e : Env) (r : RunIx) (ending : RunEnding) (d : Dev) : Dev := (endRun e r ending plainEnd d).2

/-! ### Claiming (R110 to R112) -/

/-- The building state that goes with TA's answer (R110). -/
def runAnswer : ClaimAnswer → RunBuilding
  | .granted => .granted
  | .wait => .waiting
  | .held .priority => .claiming
  | .held .settling => .claiming
  | .held .drill => .dropped .drill
  | .held .alarm => .dropped .alarm
  | .failed => .dropped .failed
  | .excludedQuiet => .dropped .quiet
  | .excludedDisabled => .dropped .disabled

/-- The other runs' released sets after an answer to this run's claim (R107): any answer but HELD PRIORITY. -/
def forgetByAnswers (r : RunIx) (as : Answers) (d : Dev) : Dev :=
  let seen := bsWhere fun b => as.any fun p => p.1 == b && !(p.2 == .held .priority)
  let runs := Vector.ofFn fun i : RunIx =>
    if i = r then d.rs.runs[i] else (d.rs.runs[i]).map fun run => { run with released := run.released &&& ~~~seen }
  { d with rs := { d.rs with runs := runs } }

/-- A run claims some of its buildings, in SINGLE mode at RING priority (R110); with its deadline count at 0 the
claim is marked "at deadline" and what it leaves CLAIMING or WAITING is dropped HELD (R111). -/
def claimForRun (r : RunIx) (which : List Building) (d : Dev) : Dev :=
  match d.rs.runs[r] with
  | none => d
  | some run =>
    let (as, d1) := claimSingle (.ring r) .ring (run.count == 0) run.zones which d
    let d2 := forgetByAnswers r as d1
    modRun r (fun run =>
      let run1 := mapBuildings (fun b s =>
        match answerOf as b with
        | some a => runAnswer a
        | none => s) run
      if run.count = 0 then mapBuildings (fun _ s => if isWanting s then .dropped .held else s) run1 else run1) d2

/-- A CLAIMING run with nothing CLAIMING or WAITING moves on (R112). -/
def moveOn (e : Env) (r : RunIx) (d : Dev) : Dev :=
  match d.rs.runs[r] with
  | none => d
  | some run =>
    if run.state ≠ .claiming then d
    else if runWhere run isWanting ≠ 0 then d
    else if runWhere run isGranted = 0 then finishRun e r .nothingGranted d
    else
      match idleGen d with
      | some g => stageRun r g d
      | none =>
        if run.count = 0 then finishRun e r .deadline d
        else if Config.waitListCap ≤ d.rs.waitList.length then finishRun e r .waitListFull d
        else
          setRun r (some { run with state := .genWait })
            { d with rs := { d.rs with waitList := d.rs.waitList ++ [r] } }

/-- A CLAIMING run claims again what it has CLAIMING or WAITING among some buildings, and moves on (R111, R112). R112 has it
move on after the claim's answer, and R90 has TA tell the holders that the claim preempted; the spec does not order the two.
That the run moves on first, so that a generator which such a notice frees comes too late for it, is the model's choice
(log entry 56). -/
def reclaim (e : Env) (r : RunIx) (among : BuildingSet) (d : Dev) : Dev :=
  match d.rs.runs[r] with
  | none => d
  | some run =>
    if run.state ≠ .claiming then d
    else
      match bsList (runWhere run isWanting &&& among) with
      | [] => d
      | which => moveOn e r (claimForRun r which d)

/-! ### Creating a run (R108, R109) -/

/-- RS's answer to a ring request: a run was created, an outcome at once, or no slot was free. -/
inductive RingAnswer where
  | created (r : RunIx)
  | outcome (o : RingOutcome)
  | noSlot
  deriving DecidableEq, Repr

/-- RS creates a run in the lowest-numbered free slot and makes its first claim. A first claim that leaves nothing
CLAIMING, WAITING or GRANTED ends the run on the spot, and its outcome is the answer (R108). A run that has nothing left to
claim moves on (R112) before the holders that its claim preempted take their notices, which is the model's choice (log
entry 56). -/
def createRun (e : Env) (origin : RunOrigin) (pattern : Nat) (zones : ZoneSet) (due : Option Stamp) (d : Dev) :
    RingAnswer × Dev :=
  match runIxs.find? (slotFree d) with
  | none => (.noSlot, d)
  | some r =>
    let touched := zoneBuildings zones
    let run : Run :=
      { state := .claiming, origin := origin, pattern := pattern, steps := patternOf d pattern, zones := zones,
        due := due, count := e.settings.bellWindow, window := e.settings.bellWindow,
        at_ := Vector.ofFn fun b => if bsHas touched b then some .claiming else none,
        sounded := 0, gen := none, order := d.rs.nextOrder, ending := none, outcome := none, endTime := none,
        released := 0 }
    let d1 := setRun r (some run) { d with rs := { d.rs with nextOrder := d.rs.nextOrder + 1 } }
    let d2 := claimForRun r (bsList touched) d1
    match d2.rs.runs[r] with
    | none => (.created r, d2)
    | some run1 =>
      if runWhere run1 isWanting = 0 ∧ runWhere run1 isGranted = 0 then
        let (o, d3) := endRun e r .nothingGranted { plainEnd with tell := false } d2
        (.outcome o, d3)
      else (.created r, moveOn e r d2)

/-! ### Notices and events -/

/-- STARTED for a run (R113). -/
def runStarted (e : Env) (r : RunIx) (members : BuildingSet) (d : Dev) : Dev :=
  match d.rs.runs[r] with
  | none => d
  | some run =>
    if run.state ≠ .staging then d
    else
      let run1 := mapBuildings (fun b s =>
        if s = .staged then (if bsHas members b then .playing else .dropped .notStarted) else s) run
      if members = 0 then finishRun e r .allLost (setRun r (some run1) d)
      else
        let run2 := { run1 with state := .playing, sounded := run1.sounded ||| runWhere run1 (· == .playing) }
        let d1 := setRun r (some run2) { d with rs := { d.rs with startOrder := d.rs.startOrder ++ [r] } }
        match run.gen with
        | some g => startGen e g d1
        | none => d1

/-- PREEMPTED or FAILED for a run's building (R114). -/
def runNotice (e : Env) (r : RunIx) (b : Building) (reason : DropReason) (d : Dev) : Dev :=
  match d.rs.runs[r] with
  | none => d
  | some run =>
    if !isActive run then d
    else if !((stateAt run b).any isHolding) then d
    else
      let run1 := mapBuildings (fun c s => if c = b then .dropped reason else s) run
      let d1 := setRun r (some run1) d
      if run.state = .claiming then moveOn e r d1
      else if runWhere run1 isHolding = 0 then finishRun e r .allLost d1
      else d1

/-- A run's place in the creation order. -/
def runAge (d : Dev) (r : RunIx) : Nat := ((d.rs.runs[r]).map fun run => run.order).getD 0

/-- A run put into a list of runs that stands oldest first. -/
def insertByAge (d : Dev) (r : RunIx) : List RunIx → List RunIx
  | [] => [r]
  | s :: rest => if runAge d r < runAge d s then r :: s :: rest else s :: insertByAge d r rest

/-- The active runs, oldest first by creation order. -/
def runsByAge (d : Dev) : List RunIx :=
  (runIxs.filter fun r => (d.rs.runs[r]).any isActive).foldl (fun l r => insertByAge d r l) []

def reclaimEach (e : Env) (b : Building) : List RunIx → Dev → Dev
  | [], d => d
  | r :: rest, d => reclaimEach e b rest (reclaim e r (bsOne b) d)

/-- A trunk-free event reaches RS (R107, R111). -/
def rsTrunkFree (e : Env) (b : Building) (d : Dev) : Dev :=
  let d1 := runsForget b d
  reclaimEach e b (runsByAge d1) d1

def lowerCount (bornBefore : Nat) (run : Run) : Run :=
  if (run.state = .claiming ∨ run.state = .genWait) ∧ run.order < bornBefore then { run with count := run.count - 1 }
  else run

def endOverdue (e : Env) : List RunIx → Dev → Dev
  | [], d => d
  | r :: rest, d =>
    endOverdue e rest
      (match d.rs.runs[r] with
       | some run => if run.state = .genWait ∧ run.count = 0 then finishRun e r .deadline d else d
       | none => d)

/-- RS's part of a second event (R111, R112): counts are lowered, waiting runs whose count is 0 end DEADLINE, and
every CLAIMING run, oldest first, claims again. That the waiting runs end before the claims is the model's choice, and so
is that a run made at this very event does not claim again at it (log entry 40); its count begins with the next event
(R111). -/
def rsSecond (e : Env) (bornBefore : Nat) (d : Dev) : Dev :=
  let d1 := modRuns (lowerCount bornBefore) d
  let d2 := endOverdue e d1.rs.waitList d1
  let again := (runsByAge d2).filterMap fun r =>
    match d2.rs.runs[r] with
    | some run =>
      if run.state = .claiming ∧ run.order < bornBefore then some (Msg.runReclaim r run.order) else none
    | none => none
  pushAll again d2

/-- One run's turn at a second event. -/
def runTurn (e : Env) (r : RunIx) (order : Nat) (d : Dev) : Dev :=
  match d.rs.runs[r] with
  | some run => if run.order = order then reclaim e r 0xFF d else d
  | none => d

/-! ### What PU and DC ask of RS -/

/-- PU asks for a chime generator: the lowest IDLE one, or NONE FREE; an EMPTY pattern is NONE FREE (R105). -/
def askChime (slot : PageSlot) (pattern : Nat) (d : Dev) : Option GenNo × Dev :=
  match patternOf d pattern, idleGen d with
  | [], _ => (none, d)
  | _, none => (none, d)
  | steps, some g => (some g, assignGen g (.chime slot) steps d)

/-- Of the generators that satisfy `p`, the one assigned last. -/
def lastAssigned (d : Dev) (p : GenUse → Bool) : Option GenNo :=
  generators.foldl (fun best g =>
    match d.rs.gens[g] with
    | some u =>
      if p u then
        match best with
        | some h => if ((d.rs.gens[h]).map fun v => v.order).getD 0 < u.order then some g else best
        | none => some g
      else best
    | none => best) none

def isStagingRun (d : Dev) (u : GenUse) : Bool :=
  match u.user with
  | .run r => (d.rs.runs[r]).any fun run => run.state == .staging
  | _ => false

def isChime (u : GenUse) : Bool :=
  match u.user with
  | .chime _ => true
  | _ => false

/-- The generator of a PLAYING run that RS started last (R106). -/
def lastStartedGen (d : Dev) : Option GenNo :=
  match d.rs.startOrder.getLast? with
  | some r =>
    match d.rs.runs[r] with
    | some run => run.gen
    | none => none
  | none => none

/-- The generator that the drill's request takes, in the order of R106. -/
def drillGen (d : Dev) : GenNo :=
  ((idleGen d).or ((lastStartedGen d).or ((lastAssigned d (isStagingRun d)).or (lastAssigned d isChime)))).getD 0

/-- DC asks for the drill's generator, which is always granted (R106): a ring run that loses it ends GENERATOR
TAKEN, its buildings released first, and a chime's slot is told "chime taken". PU acts on "chime taken" after DC's whole
entry to EVAC, its claim of R152 step 4 with it, which is the model's choice (log entry 59). -/
def takeDrillGen (e : Env) (steps : List PStep) (d : Dev) : GenNo × Dev :=
  let g := drillGen d
  let d1 :=
    match d.rs.gens[g] with
    | none => d
    | some u =>
      match u.user with
      | .run r => (endRun e r .generatorTaken { plainEnd with giveBack := false } d).2
      | .chime k => push (.chimeTaken k) d
      | .drill => d
  (g, assignGen g .drill steps d1)

/-- A generator's last pattern step runs out (R104): a run ends FINISHED, a chime reports to PU and its generator
is freed (R105), the drill's generator starts again. -/
def patternEnds (e : Env) (g : GenNo) (d : Dev) : Dev :=
  match d.rs.gens[g] with
  | none => d
  | some u =>
    if u.phase ≠ .sounding then d
    else
      let d1 := setGen g (some { u with phase := .ended }) d
      match u.user with
      | .run r => finishRun e r .finished d1
      | .chime k => freeGen g (push (.chimeEnd k) d1)
      | .drill => setGen g (some { u with since := e.clock }) d1

/-! ### The alarm hold, backup and RESTART (R117) -/

def endEach (e : Env) (ending : RunEnding) (m : Run → EndMode) : List RunIx → Dev → Dev
  | [], d => d
  | r :: rest, d =>
    endEach e ending m rest
      (match d.rs.runs[r] with
       | some run => if isActive run then (endRun e r ending (m run) d).2 else d
       | none => d)

/-- Every active run ends, oldest first; the wait list, the start order and every released set are emptied. -/
def endAllRuns (e : Env) (ending : RunEnding) (m : Run → EndMode) (d : Dev) : Dev :=
  let d1 := { d with rs := { d.rs with waitList := [], startOrder := [] } }
  modRuns (fun run => { run with released := 0 }) (endEach e ending m (runsByAge d1) d1)

/-- The alarm hold begins (R117). -/
def rsAlarm (e : Env) (d : Dev) : Dev :=
  endAllRuns e .aborted (fun _ => { plainEnd with outcome := some .suppressed }) d

def idleGens (d : Dev) : Dev := { d with rs := { d.rs with gens := Vector.replicate 4 none } }

/-- Entry to backup (R117). -/
def rsBackup (e : Env) (d : Dev) : Dev :=
  idleGens (endAllRuns e .abortedPower
    (fun run => { plainEnd with release := false, giveBack := false, outcome := some (powerOutcome run) }) d)

/-- RESTART begins: outcomes are kept for its end (R117). -/
def rsRestart (e : Env) (d : Dev) : Dev :=
  idleGens (endAllRuns e .aborted
    (fun run => { plainEnd with release := false, giveBack := false, later := true, outcome := some (powerOutcome run) })
    d)

/-- RESTART ends: the outcomes go to TT (R117). -/
def rsRestartEnds (d : Dev) : Dev :=
  pushAll (d.rs.heldOut.map fun p => .ringOutcome p.1 p.2) { d with rs := { d.rs with heldOut := [] } }

end Sys2Proof.Machine
end

