-- ==== Sys2Proof/Machine/Announce.lean ====
section
/-! DEFINITION. AM: the player and the clip port (R120, R121), the announcement queue and its service (R122 to
R128), notices and endings (R129 to R133), and what ends every request (R134, R135). -/

namespace Sys2Proof.Machine

def setAm (x : Announcer) (d : Dev) : Dev := { d with am := x }

def modReq (id : Nat) (f : AnnounceReq → AnnounceReq) (d : Dev) : Dev :=
  setAm { d.am with queue := d.am.queue.map fun r => if r.id == id then f r else r } d

def reqOf (d : Dev) (id : Nat) : Option AnnounceReq := d.am.queue.find? fun r => r.id == id

/-- The PLAYING request, if there is one (R123). -/
def playingReq (d : Dev) : Option AnnounceReq := d.am.queue.find? fun r => r.playing

/-- A clip's length, if the clip is defined (R119). -/
def clipLength (d : Dev) (clip : Nat) : Option Nat := (d.am.clips.toList.getD (clip - 1) none)

/-! ## Ids and released sets (R122) -/

def idInUse (d : Dev) (id : Nat) : Bool :=
  (d.am.queue.any fun r => r.id == id) || (d.am.released.any fun p => p.1 == id && p.2 != 0)

/-- The id after another, 255 followed by 1. -/
def nextIdAfter (id : Nat) : Nat := if 255 ≤ id then 1 else id + 1

/-- The first id at or after `id` that is not in use, looking at `fuel` of them. -/
def findId (d : Dev) : Nat → Nat → Nat
  | 0, id => id
  | fuel + 1, id => if idInUse d id then findId d fuel (nextIdAfter id) else id

/-- AM assigns an id (R122) and the next place in the order of arrival. -/
def takeId (d : Dev) : Nat × Dev :=
  let id := findId d 255 d.am.nextId
  (id, setAm { d.am with nextId := nextIdAfter id, nextOrder := d.am.nextOrder + 1 } d)

/-- Buildings leave every released set (R122). -/
def amForget (gone : BuildingSet) (d : Dev) : Dev :=
  let left := (d.am.released.map fun p => (p.1, p.2 &&& ~~~gone)).filter fun p => p.2 != 0
  setAm { d.am with released := left } d

/-! ## The player -/

/-- The player becomes IDLE, and AM scans the queue (R121). -/
def playerIdle (d : Dev) : Dev :=
  push .scan (setAm { d.am with player := .idle, startBy := none, endBy := none, stopBy := none } d)

/-- AM sends the STOP strobe: the player is STOPPING with a stop window of 1 s. CPLAY is a level, so a CPLAY already
released leaves the player IDLE at once (R121; log entry 15). -/
def sendStop (e : Env) (d : Dev) : Dev :=
  let d1 := setAm { d.am with strobe := .stop } d
  if d.am.cplay then
    setAm { d1.am with
      player := .stopping, startBy := none, endBy := none, stopBy := some (e.clock + Config.msTicks 1000) } d1
  else playerIdle d1

/-! ## Ending a request (R130) -/

def reqState (r : AnnounceReq) (b : Building) : Option ReqBuilding := r.at_[b]

/-- GRANTED or PLAYING. -/
def reqHolds : ReqBuilding → Bool
  | .granted => true
  | .playing => true
  | _ => false

def reqWhere (r : AnnounceReq) (p : ReqBuilding → Bool) : BuildingSet := bsWhere fun b => (reqState r b).any p

def isReqPlaying : ReqBuilding → Bool
  | .playing => true
  | _ => false

def isOutExcluded : ReqBuilding → Bool
  | .outQuiet => true
  | .outDisabled => true
  | _ => false

/-- The outcome of a normal end: DELIVERED if every building of the zone set that is not excluded was PLAYING
(R130). -/
def normalOutcome (r : AnnounceReq) : ReqOutcome :=
  if (bsList (zoneBuildings r.zones)).all fun b =>
    match reqState r b with
    | some s => isOutExcluded s || isReqPlaying s
    | none => false
  then .delivered else .partly

/-- PREEMPTED if any building was lost to preemption, FAILED otherwise (R128, R129). -/
def lossOutcome (r : AnnounceReq) : ReqOutcome :=
  if reqWhere r (· == .lostPreempted) ≠ 0 then .preempted else .failed

/-- A finished record joins the list, which keeps the newest eight (R133). -/
def addFinished (f : FinishedRec) (l : List FinishedRec) : List FinishedRec :=
  let l1 := l ++ [f]
  l1.drop (l1.length - Config.finishedCap)

/-- How a request ends: with a release or without (R130, R135), after a normal end or not, whether the clip port is
powered to take a STOP strobe, and whether DC hears of a drill clip later, when a RESTART ends (R135). -/
structure ReqEnd where
  release : Bool
  normal : Bool
  powered : Bool
  later : Bool

def ordinaryEnd : ReqEnd := { release := true, normal := false, powered := true, later := false }

/-- DC is told the outcome of a drill clip, now or when the RESTART ends (R130, R135). -/
def tellClip (later : Bool) (id : Nat) (o : ReqOutcome) (d : Dev) : Dev :=
  if later then setAm { d.am with heldOut := d.am.heldOut ++ [(id, o)] } d else push (.clipOutcome id o) d

/-- What the player does when the PLAYING request ends (R130 step 2). -/
def playerAfterEnd (e : Env) (m : ReqEnd) (d : Dev) : Dev :=
  match d.am.player with
  | .staging => playerIdle d
  | .starting => if m.powered then (if m.normal then playerIdle d else sendStop e d) else playerIdle d
  | .playing => if m.powered then (if m.normal then playerIdle d else sendStop e d) else playerIdle d
  | .stopping => d
  | .idle => d

/-- A request ends (R130). -/
def endRequest (e : Env) (id : Nat) (o : ReqOutcome) (m : ReqEnd) (d : Dev) : Dev :=
  match reqOf d id with
  | none => d
  | some r =>
    let held := if r.playing then reqWhere r reqHolds else 0
    let delivered := if m.normal then reqWhere r isReqPlaying else 0
    let d1 :=
      if r.playing && m.release then
        let d0 := releaseSet (.announce id) held d
        setAm { d0.am with released := if held = 0 then d0.am.released else d0.am.released ++ [(id, held)] } d0
      else d
    let d2 := if r.playing then playerAfterEnd e m d1 else d1
    let d3 := setAm { d2.am with
      queue := d2.am.queue.filter fun q => !(q.id == id)
      finished := addFinished
        { id := id, origin := r.origin, clip := r.clip, prio := r.prio, outcome := o, delivered := delivered,
          endTime := e.now } d2.am.finished } d2
    let d4 := if o = .delivered then d3 else latch .announceAbnormal d3
    if r.origin = .drill then tellClip m.later id o d4 else d4

/-! ## The clip port (R120) -/

/-- AM sends START for the PLAYING request's clip. A CPLAY already asserted counts as seen at once (R120). -/
def startClip (e : Env) (r : AnnounceReq) (d : Dev) : Dev :=
  setAm { d.am with
    select := r.clip - 1, strobe := .start,
    player := if d.am.cplay then .playing else .starting,
    startBy := if d.am.cplay then none else some (e.clock + Config.msTicks 500),
    endBy := some (e.clock + Config.msTicks (r.length * 100 + 3000)), stopBy := none } d

/-- CPLAY is seen asserted (R120). -/
def cplayUp (d : Dev) : Dev :=
  let d1 := setAm { d.am with cplay := true } d
  match d1.am.player with
  | .starting => setAm { d1.am with player := .playing, startBy := none } d1
  | _ => d1

/-- CPLAY is released: the clip has ended normally, or the store has stopped (R120, R121). -/
def cplayDown (e : Env) (d : Dev) : Dev :=
  let d1 := setAm { d.am with cplay := false } d
  match d1.am.player with
  | .playing =>
    match playingReq d1 with
    | some r => endRequest e r.id (normalOutcome r) { ordinaryEnd with normal := true } d1
    | none => playerIdle d1
  | .stopping => playerIdle d1
  | _ => d1

/-- The start window runs out while STARTING (R120). -/
def startWindowEnds (e : Env) (d : Dev) : Dev :=
  match d.am.player, playingReq d with
  | .starting, some r => endRequest e r.id .failed ordinaryEnd (latch .clipStoreFault d)
  | _, _ => d

/-- The end limit runs out while PLAYING (R120). -/
def endLimitEnds (e : Env) (d : Dev) : Dev :=
  match d.am.player, playingReq d with
  | .playing, some r => endRequest e r.id .timeout ordinaryEnd (latch .clipTimeout d)
  | _, _ => d

/-- The stop window runs out (R121). -/
def stopWindowEnds (d : Dev) : Dev :=
  match d.am.player with
  | .stopping => playerIdle (if d.am.cplay then latch .clipStoreFault d else d)
  | _ => d

/-! ## Service (R127, R128) -/

def reqClaimPrio : ReqPrio → ClaimPrio
  | .normal => .normal
  | .urgent => .urgent
  | .drill => .drill

/-- A building's state in a granted request (R128). -/
def reqAnswer : ClaimAnswer → Option ReqBuilding
  | .granted => some .granted
  | .excludedQuiet => some .outQuiet
  | .excludedDisabled => some .outDisabled
  | .failed => some .outFailed
  | _ => none

/-- A request's claim set is granted: it becomes PLAYING at the head of the queue, and AM asks TA to apply the
granted buildings with source PLAYER (R128). -/
def grantRequest (r : AnnounceReq) (as : Answers) (d : Dev) : Dev :=
  let r1 : AnnounceReq :=
    { r with
      playing := true
      at_ := Vector.ofFn fun b => (answerOf as b).bind reqAnswer }
  let d1 := setAm { d.am with
    queue := r1 :: d.am.queue.filter fun q => !(q.id == r.id)
    player := .staging } d
  applyBuildings (.announce r.id) (grantedSet as) .player (amForget (grantedSet as) d1)

/-- AM goes through the QUEUED requests in queue order while the player is IDLE (R127). -/
def scanList (e : Env) : List Nat → Dev → Dev
  | [], d => d
  | id :: rest, d =>
    match d.am.player, reqOf d id with
    | .idle, some r =>
      if r.playing || !r.eligible then
        if r.prio = .drill then d else scanList e rest d
      else
        match claimSet (.announce id) (reqClaimPrio r.prio) r.zones d with
        | (.granted, as, d1) => grantRequest r as d1
        | (.held, _, d1) => if r.prio = .drill then d1 else scanList e rest d1
        | (.noneLeft, as, d1) =>
          let d2 :=
            if as.any fun p => p.2 = .failed then d1 else endRequest e id .suppressed ordinaryEnd d1
          if r.prio = .drill then d2 else scanList e rest d2
    | .idle, none => scanList e rest d
    | _, _ => d

def scanQueue (e : Env) (d : Dev) : Dev :=
  if d.am.player = .idle then scanList e (d.am.queue.map fun r => r.id) d else d

/-! ## Arrivals (R123 to R125) -/

def prioOver (p q : ReqPrio) : Bool :=
  match p, q with
  | .drill, .drill => true
  | .drill, _ => true
  | .urgent, .drill => false
  | .urgent, _ => true
  | .normal, .normal => true
  | .normal, _ => false

/-- A request placed by R123's order: after the PLAYING request and every request of its priority or a higher one. -/
def placeReq (r : AnnounceReq) : List AnnounceReq → List AnnounceReq
  | [] => [r]
  | q :: rest => if q.playing || prioOver q.prio r.prio then q :: placeReq r rest else r :: q :: rest

/-- AM's answer to a request: the id when it is placed or merged, or the result that refuses it (R124, R125). -/
inductive AmAnswer where
  | taken (id : Nat)
  | refused (res : Result)
  deriving DecidableEq, Repr

/-- A request with the same clip, zone set and priority in the queue (R124 step 6). -/
def sameReq (d : Dev) (clip : Nat) (zones : ZoneSet) (prio : ReqPrio) : Option AnnounceReq :=
  d.am.queue.find? fun r => r.clip == clip && r.zones == zones && r.prio == prio

/-- A request's arrival from step 5 of R124 on: NOTFOUND, merge, FULL, or a place in the queue and a scan. -/
def arrive (origin : ReqOrigin) (clip : Nat) (zones : ZoneSet) (prio : ReqPrio) (notBefore : Option Stamp)
    (count : Nat) (d : Dev) : AmAnswer × Dev :=
  match clipLength d clip with
  | none => (.refused .notFound, d)
  | some len =>
    match sameReq d clip zones prio with
    | some r =>
      (.taken r.id, if r.playing then d else modReq r.id (fun q => { q with count := max q.count count }) d)
    | none =>
      if Config.announceCap ≤ d.am.queue.length then (.refused .full, d)
      else
        let (id, d1) := takeId d
        let r : AnnounceReq :=
          { id := id, origin := origin, clip := clip, length := len, zones := zones, prio := prio,
            notBefore := notBefore, eligible := notBefore.isNone, count := count, playing := false,
            at_ := Vector.replicate 8 none, order := d.am.nextOrder }
        (.taken id, push .scan (setAm { d1.am with queue := placeReq r d1.am.queue } d1))

def reqPrioOf : Urgency → ReqPrio
  | .normal => .normal
  | .urgent => .urgent

/-- A request of a CLIP entry (R125). -/
def clipEntry (ref : EntryRef) (clip : Nat) (zones : ZoneSet) (u : Urgency) (d : Dev) : AmAnswer × Dev :=
  if d.ah.hold then (.refused .refused, d) else arrive (.entry ref) clip zones (reqPrioOf u) none 300 d

/-! ## Drill clips (R132) -/

/-- DC places a drill clip (R132). A request that it preempts or displaces writes its finished record here. Where DC
does so at a second event, that is before AM counts at the same event, so the record joins before that of a request
ahead of it in the queue that expires then (R126); R133 has the records of one event join in queue order, and that the
blocks' parts of the event come first, DC's before AM's and PU's after, is the model's choice (log entry 60). -/
def placeDrillClip (e : Env) (clip : Nat) (zones : ZoneSet) (count : Nat) (d : Dev) : AmAnswer × Dev :=
  if d.ah.hold then (.refused .refused, d)
  else
    match clipLength d clip with
    | none => (.refused .notFound, d)
    | some len =>
      if d.am.queue.any fun r => r.origin == .drill then (.refused .busy, d)
      else
        let d1 := match playingReq d with
          | some r => endRequest e r.id .preempted ordinaryEnd d
          | none => d
        let d2 :=
          if Config.announceCap ≤ d1.am.queue.length then
            match d1.am.queue.getLast? with
            | some r => endRequest e r.id .displaced ordinaryEnd d1
            | none => d1
          else d1
        let (id, d3) := takeId d2
        let r : AnnounceReq :=
          { id := id, origin := .drill, clip := clip, length := len, zones := zones, prio := .drill,
            notBefore := none, eligible := true, count := count, playing := false, at_ := Vector.replicate 8 none,
            order := d2.am.nextOrder }
        (.taken id, push .scan (setAm { d3.am with queue := placeReq r d3.am.queue } d3))

/-- DC withdraws its drill clip (R132). -/
def withdrawClip (e : Env) (id : Nat) (d : Dev) : Dev := endRequest e id .cancelled ordinaryEnd d

/-! ## Notices and events -/

/-- STARTED for the PLAYING request (R128). -/
def amStarted (e : Env) (id : Nat) (members : BuildingSet) (d : Dev) : Dev :=
  match reqOf d id with
  | none => d
  | some r =>
    if !r.playing || d.am.player ≠ .staging then d
    else
      let start (b : Building) : Option ReqBuilding :=
        match r.at_[b] with
        | some .granted => if bsHas members b then some .playing else some .lostFailed
        | s => s
      let r1 : AnnounceReq := { r with at_ := Vector.ofFn start }
      let d1 := modReq id (fun _ => r1) d
      if members = 0 then endRequest e id (lossOutcome r) ordinaryEnd d1
      else startClip e r1 d1

/-- PREEMPTED or FAILED for the PLAYING request (R129). -/
def amNotice (e : Env) (id : Nat) (b : Building) (preempted : Bool) (d : Dev) : Dev :=
  match reqOf d id with
  | none => d
  | some r =>
    if !r.playing || !((reqState r b).any reqHolds) then d
    else
      let r1 : AnnounceReq :=
        { r with at_ := put r.at_ b (some (if preempted then ReqBuilding.lostPreempted else ReqBuilding.lostFailed)) }
      let d1 := modReq id (fun _ => r1) d
      if reqWhere r1 reqHolds ≠ 0 then d1
      else if d.am.player = .starting ∨ d.am.player = .playing then endRequest e id (lossOutcome r1) ordinaryEnd d1
      else d1

/-- A trunk-free event reaches AM (R122, R127). -/
def amTrunkFree (e : Env) (b : Building) (d : Dev) : Dev := scanQueue e (amForget (bsOne b) d)

/-- One QUEUED request at a second event (R126). -/
def countRequest (e : Env) (ev : SecondEvent) (id : Nat) (d : Dev) : Dev :=
  match reqOf d id with
  | none => d
  | some r =>
    if r.playing then d
    else
      let reached := match r.notBefore, ev.new with
        | some t, some now => stampLe t now
        | _, _ => false
      let eligible := r.eligible || reached
      let count := if eligible then r.count - 1 else r.count
      let d1 := modReq id (fun q => { q with eligible := eligible, count := count }) d
      if count = 0 then endRequest e id .expired ordinaryEnd d1 else d1

def countRequests (e : Env) (ev : SecondEvent) : List Nat → Dev → Dev
  | [], d => d
  | id :: rest, d => countRequests e ev rest (countRequest e ev id d)

/-- AM's part of a second event (R126): the requests that arrived before the event began are counted, in queue order,
then AM scans. A request that expires writes its record as it is counted (R130), so before one ahead of it in the
queue that the scan then ends SUPPRESSED (R127); R133 has the records of one event join in queue order, and that the
count's records come first is the model's choice (log entry 60). So is that they join after those of requests which
the blocks before AM ended at this event, DC's drill clip and claims above all, and before those of requests which
PU's claims end at it (log entries 8 and 60). -/
def amSecond (e : Env) (ev : SecondEvent) (bornBefore : Nat) (d : Dev) : Dev :=
  push .scan
    (countRequests e ev ((d.am.queue.filter fun r => r.order < bornBefore).map fun r => r.id) d)

/-! ## The alarm hold, backup and RESTART (R134, R135) -/

def endIds (e : Env) (o : ReqOutcome) (m : ReqEnd) : List Nat → Dev → Dev
  | [], d => d
  | id :: rest, d => endIds e o m rest (endRequest e id o m d)

/-- Every request ends, in queue order, and every released set is emptied. -/
def endAllRequests (e : Env) (o : ReqOutcome) (m : ReqEnd) (d : Dev) : Dev :=
  let d1 := endIds e o m (d.am.queue.map fun r => r.id) d
  setAm { d1.am with released := [] } d1

/-- The alarm hold begins (R134). -/
def amAlarm (e : Env) (d : Dev) : Dev := endAllRequests e .alarm ordinaryEnd d

/-- Entry to backup (R135). -/
def amBackup (e : Env) (d : Dev) : Dev :=
  let d1 := endAllRequests e .power { release := false, normal := false, powered := false, later := false } d
  setAm { d1.am with player := .idle, startBy := none, endBy := none, stopBy := none } d1

/-- RESTORE (R135): a CPLAY that is asserted is stopped. -/
def amRestore (e : Env) (d : Dev) : Dev := if d.am.cplay then sendStop e d else playerIdle d

/-- RESTART begins; DC is told of a drill clip when it ends (R135). -/
def amRestart (e : Env) (d : Dev) : Dev :=
  endAllRequests e .aborted { release := false, normal := false, powered := true, later := true } d

/-- The player as a RESTART ends: STOPPING if CPLAY is asserted, IDLE otherwise (R135). R135 names no strobe there, and none
is sent; the stop window of R121 runs its full 1 s from that end (log entry 42). -/
def playerAfterRestart (e : Env) (x : Announcer) : Announcer :=
  if x.cplay then
    { x with player := .stopping, startBy := none, endBy := none, stopBy := some (e.clock + Config.msTicks 1000) }
  else { x with player := .idle, startBy := none, endBy := none, stopBy := none }

/-- RESTART ends: DC is told of a drill clip that the RESTART ended, and the player takes its state (R135). -/
def amRestartEnds (e : Env) (d : Dev) : Dev :=
  pushAll (d.am.heldOut.map fun p => .clipOutcome p.1 p.2)
    (setAm { playerAfterRestart e d.am with heldOut := [] } d)

end Sys2Proof.Machine
end

