-- ==== Sys2Proof/Machine/Page.lean ====
section
/-! DEFINITION. PU: the page slots' configuration, push-to-talk and lockout (R137, R138), opening, starting and the
chime (R139 to R141), waiting (R142), talking and closing (R143, R144), loss (R145), and what ends every page
(R146). -/

namespace Sys2Proof.Machine

def modPage (k : PageSlot) (f : Page → Page) (d : Dev) : Dev := setPage k (f (pageOf d k)) d

def otherSlot : PageSlot → PageSlot
  | .a => .b
  | .b => .a

/-- A slot's busy lamp (R138). -/
def lampLit (p : Page) : Bool := p.state = .waiting || p.lockout

/-- A rule sets the lockout: in LEVEL mode only while PTT as seen is asserted (R138). -/
def lockOut (p : Page) : Page := { p with lockout := p.lockout || (p.trigger = .edge || p.seen) }

def pagePrio (p : Page) : ClaimPrio :=
  match p.urgency with
  | .normal => .normal
  | .urgent => .urgent

/-- IDLE with nothing held and both counts 0. -/
def idlePage (p : Page) : Page :=
  { p with state := .idle, started := false, held := 0, chimeGen := none, waitCount := 0, talkCount := 0 }

/-- A slot gives its chime generator back, if it holds one (R105). -/
def giveChime (k : PageSlot) (d : Dev) : Dev :=
  match (pageOf d k).chimeGen with
  | some g => freeGen g (modPage k (fun p => { p with chimeGen := none }) d)
  | none => d

/-- To start a granted page: take a chime or open at once, and ask TA to apply the held set (R140). -/
def startPage (k : PageSlot) (held : BuildingSet) (d : Dev) : Dev :=
  let base (p : Page) : Page := { p with started := false, held := held, waitCount := 0, talkCount := 0 }
  let opened (d : Dev) : Dev :=
    applyBuildings (.page k) held (.mic k) (modPage k (fun p => { base p with state := .opened, chimeGen := none }) d)
  match (pageOf d k).chimePattern with
  | none => opened d
  | some n =>
    match askChime k n d with
    | (some g, d1) =>
      applyBuildings (.page k) held (.tg g)
        (modPage k (fun p => { base p with state := .chime, chimeGen := some g }) d1)
    | (none, d1) => opened d1

/-- The answers of one slot's claim clear the released sets: of the other slot by any answer but HELD PRIORITY, of
its own by GRANTED (R144). -/
def forgetByPage (k : PageSlot) (a : SetAnswer) (as : Answers) (d : Dev) : Dev :=
  let seen := bsWhere fun b => as.any fun p => p.1 == b && !(p.2 == .held .priority)
  let d1 := modPage (otherSlot k) (fun p => { p with released := p.released &&& ~~~seen }) d
  if a = .granted then modPage k (fun p => { p with released := p.released &&& ~~~grantedSet as }) d1 else d1

/-- A slot becomes WAITING with wait count 0 (R139). -/
def beginWait (k : PageSlot) (d : Dev) : Dev :=
  let d1 := modPage k (fun p => { p with state := .waiting, waitCount := 0, waitOrder := d.pu.nextWait }) d
  { d1 with pu := { d1.pu with nextWait := d1.pu.nextWait + 1 } }

/-- A wait ends with lockout (R142). -/
def endWaitLocked (k : PageSlot) (d : Dev) : Dev := modPage k (fun p => lockOut (idlePage p)) d

/-- A slot claims its zone set in SET mode and acts on the answer (R139 step 3, R142). A granted slot asks for its chime
(R140) before the holders that the claim preempted take their notices, which is the model's choice (log entry 56). -/
def claimPage (k : PageSlot) (d : Dev) : Dev :=
  let p := pageOf d k
  match claimSet (.page k) (pagePrio p) p.zones d with
  | (.granted, as, d1) => startPage k (grantedSet as) (forgetByPage k .granted as d1)
  | (.held, as, d1) =>
    let d2 := forgetByPage k .held as d1
    if p.state = .waiting then d2 else beginWait k d2
  | (.noneLeft, as, d1) => endWaitLocked k (forgetByPage k .noneLeft as d1)

/-- The released set still holds a building that the zone set touches (R139 step 2). -/
def releasePending (p : Page) : Bool := (p.released &&& zoneBuildings p.zones) != 0

/-- An open request (R139). -/
def openRequest (k : PageSlot) (d : Dev) : Dev :=
  if d.ah.hold then modPage k lockOut d
  else if releasePending (pageOf d k) then beginWait k d
  else claimPage k d

/-- A WAITING slot claims again, unless a release it waits for is pending (R142). -/
def reclaimPage (k : PageSlot) (d : Dev) : Dev :=
  let p := pageOf d k
  if p.state ≠ .waiting then d else if releasePending p then d else claimPage k d

/-- To close a page: its buildings are released, its chime given back (R144). -/
def closePage (k : PageSlot) (d : Dev) : Dev :=
  let p := pageOf d k
  let d1 := releaseSet (.page k) p.held d
  let d2 := giveChime k d1
  modPage k (fun q => { idlePage q with released := q.released ||| p.held }) d2

/-- A page is lost with lockout: it no longer holds any building (R145). -/
def losePage (k : PageSlot) (d : Dev) : Dev := modPage k (fun p => lockOut (idlePage p)) (giveChime k d)

/-- STARTED for a slot (R140). -/
def pageStarted (e : Env) (k : PageSlot) (members : BuildingSet) (d : Dev) : Dev :=
  let p := pageOf d k
  if p.started then d
  else
    match p.state with
    | .chime =>
      if members = 0 then losePage k (modPage k (fun q => { q with held := 0 }) d)
      else
        let d1 := modPage k (fun q => { q with held := q.held &&& members, started := true }) d
        match p.chimeGen with
        | some g => startGen e g d1
        | none => d1
    | .opened =>
      if members = 0 then losePage k (modPage k (fun q => { q with held := 0 }) d)
      else modPage k (fun q => { q with held := q.held &&& members, started := true, talkCount := 0 }) d
    | _ => d

/-- The chime ends, by end report or "chime taken" (R141): the page moves to OPEN on its microphone. TA's answer to the
source change, which buildings were changed (R88), is read no further: R141 has PU do nothing with it. -/
def chimeOver (k : PageSlot) (d : Dev) : Dev :=
  let p := pageOf d k
  if p.state ≠ .chime ∨ p.chimeGen = none then d
  else
    let d1 := modPage k (fun q => { q with chimeGen := none, state := .opened, talkCount := 0 }) d
    if p.started then (changeSource (.page k) p.held (.mic k) d1).2
    else applyBuildings (.page k) p.held (.mic k) d1

/-- PREEMPTED or FAILED for a slot's building (R145). -/
def pageNotice (k : PageSlot) (b : Building) (d : Dev) : Dev :=
  let p := pageOf d k
  if (p.state = .chime ∨ p.state = .opened) ∧ bsHas p.held b = true then
    let held := bsRemove p.held b
    let d1 := modPage k (fun q => { q with held := held }) d
    if held = 0 then losePage k d1 else d1
  else d

/-- A building leaves a slot's released set (R144). -/
def pageForget (k : PageSlot) (b : Building) (d : Dev) : Dev :=
  modPage k (fun p => { p with released := bsRemove p.released b }) d

/-- The WAITING slots, the one that became WAITING first at the head (R142). -/
def waitingSlots (d : Dev) : List PageSlot :=
  match d.pu.a.state, d.pu.b.state with
  | .waiting, .waiting => if d.pu.b.waitOrder < d.pu.a.waitOrder then [.b, .a] else [.a, .b]
  | .waiting, _ => [.a]
  | _, .waiting => [.b]
  | _, _ => []

/-- A trunk-free event reaches PU (R142, R144). -/
def puTrunkFree (b : Building) (d : Dev) : Dev :=
  let d1 := pageForget .b b (pageForget .a b d)
  pushAll ((waitingSlots d1).map .pageReclaim) d1

/-- One slot's count at a second event, with the end of the wait or of the page when the count reaches its limit
(R142, R143). -/
def countPage (e : Env) (k : PageSlot) (d : Dev) : Dev :=
  let p := pageOf d k
  match p.state with
  | .waiting =>
    if e.settings.pageWait ≤ p.waitCount + 1 then endWaitLocked k d
    else modPage k (fun q => { q with waitCount := q.waitCount + 1 }) d
  | .opened =>
    if p.started then
      if e.settings.pageTalk ≤ p.talkCount + 1 then modPage k lockOut (closePage k d)
      else modPage k (fun q => { q with talkCount := q.talkCount + 1 }) d
    else d
  | _ => d

/-- PU's part of a second event (R142, R143): both slots are counted, slot A first, with the ends that the counts bring,
then those still WAITING claim again. That a slot's claim comes after the other slot's count and end is the model's choice
(log entry 47). -/
def puSecond (e : Env) (d : Dev) : Dev :=
  let d1 := countPage e .b (countPage e .a d)
  pushAll ((waitingSlots d1).map .pageReclaim) d1

/-- A change of PTT as seen acts on the slot by its trigger mode and state (R138). -/
def pttActs (k : PageSlot) (asserted : Bool) (d : Dev) : Dev :=
  let p := pageOf d k
  if !p.configured then d
  else
    match p.trigger, asserted, p.state with
    | .level, true, .idle => if p.lockout then d else openRequest k d
    | .level, true, _ => d
    | .level, false, .idle => modPage k (fun q => { q with lockout := false }) d
    | .level, false, .waiting => modPage k idlePage d
    | .level, false, _ => closePage k d
    | .edge, false, _ => d
    | .edge, true, .idle =>
      if p.lockout then modPage k (fun q => { q with lockout := false }) d else openRequest k d
    | .edge, true, .waiting => modPage k idlePage d
    | .edge, true, _ => closePage k d

/-- PTT as seen takes the input's new level, held for 50 ms (R138). -/
def pttTaken (k : PageSlot) (d : Dev) : Dev :=
  let p := pageOf d k
  if p.level = p.seen ∨ p.since = none then d
  else pttActs k p.level (modPage k (fun q => { q with seen := q.level, since := none }) d)

/-- A push-to-talk input changes level; a level other than PTT as seen is timed from now (R138). -/
def pttLevel (e : Env) (k : PageSlot) (v : Bool) (d : Dev) : Dev :=
  modPage k (fun p =>
    { p with level := v, since := if e.running then (if v = p.seen then none else some e.clock) else none }) d

/-- PAGE CLOSE by the slot's state (R144). -/
def hostClose (k : PageSlot) (d : Dev) : Dev :=
  match (pageOf d k).state with
  | .chime => modPage k lockOut (closePage k d)
  | .opened => modPage k lockOut (closePage k d)
  | .waiting => endWaitLocked k d
  | .idle => d

/-- One slot at the beginning of the alarm hold (R146). -/
def pageAlarm (k : PageSlot) (d : Dev) : Dev :=
  let d1 :=
    match (pageOf d k).state with
    | .idle => d
    | .waiting => endWaitLocked k d
    | _ => modPage k lockOut (closePage k d)
  modPage k (fun p => { p with released := 0 }) d1

def puAlarm (d : Dev) : Dev := pageAlarm .b (pageAlarm .a d)

/-- A slot at entry to backup (R146). -/
def pageDown (p : Page) : Page := { idlePage p with lockout := false, released := 0, since := none }

def puBackup (d : Dev) : Dev := modPage .b pageDown (modPage .a pageDown d)

/-- A slot at RESTORE and RESTART: the input is read afresh, and a configured LEVEL slot whose switch is asserted
takes its lockout (R146). -/
def pageUp (p : Page) : Page :=
  { pageDown p with seen := p.level, lockout := p.configured && p.trigger = .level && p.level }

def puStart (d : Dev) : Dev := modPage .b pageUp (modPage .a pageUp d)

end Sys2Proof.Machine
end

