-- ==== Sys2Proof/Machine/Lamps.lean ====
section
/-! DEFINITION. The upkeep of the marshal panels' drill lamps, which DC (R154) and AH (R169) do alike, and the
record store that they share (R158, R159). -/

namespace Sys2Proof.Machine

/-! ## Lamp upkeep -/

/-- Which block keeps a lamp. -/
inductive Keeper where
  | dc
  | ah
  deriving DecidableEq, Repr

def keeperOwner : Keeper → Owner
  | .dc => .dc
  | .ah => .ah

def lampOf (who : Keeper) (d : Dev) (b : Building) : LampKeep :=
  match who with
  | .dc => d.dc.lamps[b]
  | .ah => d.ah.lamps[b]

def setLamp (who : Keeper) (b : Building) (k : LampKeep) (d : Dev) : Dev :=
  match who with
  | .dc => setDcLamp b k d
  | .ah => setAhLamp b k d

/-- The wanted state is placed by enqueueing LAMP, provided none is outstanding, and the answer is taken (R154,
R169). NOT ACCEPTED is no answer to a LAMP (R31). -/
def placeLamp (who : Keeper) (b : Building) (d : Dev) : Dev :=
  let k := lampOf who d b
  match k.wanted, k.outstanding with
  | some w, none =>
    match rowOfKind d.bus[b] .marshalPanel with
    | none => setLamp who b { k with wanted := none, full := false } d
    | some r =>
      match enqueue b r.addr (.lamp w) (keeperOwner who) d with
      | (.accepted n, d1) => setLamp who b { k with outstanding := some n, full := false } d1
      | (.queueFull, d1) => setLamp who b { k with full := true } d1
      | (.notConfigured, d1) => setLamp who b { k with wanted := none, full := false } d1
      | (_, d1) => setLamp who b { k with full := false } d1
  | _, _ => d

/-- The wanted state is newly set, and placed. -/
def wantLamp (who : Keeper) (w : LampState) (b : Building) (d : Dev) : Dev :=
  placeLamp who b (setLamp who b { lampOf who d b with wanted := some w, full := false } d)

def wantLamps (who : Keeper) (w : LampState) : List Building → Dev → Dev
  | [], d => d
  | b :: rest, d => wantLamps who w rest (wantLamp who w b d)

/-- A panel's answer shows its lamp: a state other than the wanted one is corrected, and a wanted OFF that is shown
is wanted no longer (R154, R169; log entry 27). -/
def lampShown (who : Keeper) (b : Building) (lamp : LampState) (d : Dev) : Dev :=
  let k := lampOf who d b
  match k.wanted, k.outstanding with
  | some w, none =>
    if w ≠ lamp then placeLamp who b d
    else if w = .off then setLamp who b { k with wanted := none, full := false } d
    else d
  | _, _ => d

/-- A second event follows a QUEUE FULL answer (R154, R169). -/
def lampSecondList (who : Keeper) : List Building → Dev → Dev
  | [], d => d
  | b :: rest, d => lampSecondList who rest (if (lampOf who d b).full then placeLamp who b d else d)

def lampSecond (who : Keeper) (d : Dev) : Dev := lampSecondList who buildings d

/-- The lamp state that a command carries. -/
def lampCarried (c : Command) : Option LampState :=
  match c.op with
  | .lamp l => some l
  | _ => none

/-- A LAMP's outcome (R154, R169). The flag is cleared by the outcome of the very LAMP it stands for; a LAMP carried
through a RESTART leaves it as it stands (R172). DC gives the wanted state up when the LAMP was discarded for alarm
mode or removal; AH keeps it. -/
def lampOutcome (who : Keeper) (b : Building) (c : Command) (o : CmdOutcome) (d : Dev) : Dev :=
  let k := lampOf who d b
  let k1 := if k.outstanding = some c.serial then { k with outstanding := none } else k
  let giveUp : Dev := setLamp who b (match who with | .dc => { k1 with wanted := none } | .ah => k1) d
  match o with
  | .done _ _ =>
    if k1.wanted = some .off ∧ lampCarried c = some .off then setLamp who b { k1 with wanted := none } d
    else if k1.wanted ≠ lampCarried c then placeLamp who b (setLamp who b k1 d)
    else setLamp who b k1 d
  | .failed => setLamp who b k1 d
  | .discarded .stationLost => setLamp who b k1 d
  | .discarded .removed => giveUp
  | .discarded .alarmMode => giveUp

/-- Every building's upkeep rewritten. -/
def mapLamps (who : Keeper) (f : LampKeep → LampKeep) (d : Dev) : Dev :=
  match who with
  | .dc => { d with dc := { d.dc with lamps := tabMap f d.dc.lamps } }
  | .ah => { d with ah := { d.ah with lamps := tabMap f d.ah.lamps } }

/-- Every LAMP outstanding is cleared (R162, R172). -/
def clearOutstanding (who : Keeper) (d : Dev) : Dev :=
  mapLamps who (fun k => { k with outstanding := none, full := false }) d

def noLamps (who : Keeper) (d : Dev) : Dev := mapLamps who (fun k => { k with wanted := none, full := false }) d

/-- Every lamp wanted OFF is placed (R162, R172). -/
def placeOffs (who : Keeper) : List Building → Dev → Dev
  | [], d => d
  | b :: rest, d => placeOffs who rest (if (lampOf who d b).wanted = some .off then placeLamp who b d else d)

/-! ## The record store -/

def recordOf (d : Dev) (n : Nat) : Option Record := d.dc.records.find? fun r => r.number == n

def modRecord (n : Nat) (f : Record → Record) (d : Dev) : Dev :=
  { d with dc := { d.dc with records := d.dc.records.map fun r => if r.number == n then f r else r } }

def RecordBuilding.blank : RecordBuilding := { mute := none, clear := none, elapsed := none }

/-- The record number that follows another (R158). -/
def nextRecordAfter (n : Nat) : Nat := if 65535 ≤ n then 1 else n + 1

/-- A record is opened, open and unread; a full store gives up its oldest, and an oldest that was closed and unread
latches RECORD OVERWRITTEN (R158). A drill's record has no activation count (R158), and R182 names no absent value for its
byte: the model holds and sends 0 (log entry 41). Answers its number. -/
def openRecord (kind : RecordKind) (set : BuildingSet) (start : Option Stamp) (d : Dev) : Nat × Dev :=
  let n := d.dc.nextRecord
  let (activations, last) := match kind with
    | .alarm => (1, start)
    | .drill _ => (0, none)
  let r : Record :=
    { number := n, kind := kind, buildings := set, start := start, evacStart := none,
      at_ := Vector.replicate 8 RecordBuilding.blank, activations := activations, lastActivation := last,
      lineQuiet := none, endTime := none, outcome := none, read := false }
  let store (old : List Record) : Dev :=
    { d with dc := { d.dc with records := old ++ [r], nextRecord := nextRecordAfter n } }
  if Config.recordCap ≤ d.dc.records.length then
    match d.dc.records with
    | oldest :: rest =>
      (n, if oldest.outcome.isSome && !oldest.read then latch .recordOverwritten (store rest) else store rest)
    | [] => (n, store [])
  else (n, store d.dc.records)

/-- The later of two stamps that may be absent. -/
def latestOf : Option Stamp → Option Stamp → Option Stamp
  | some t, some u => some (stampMax t u)
  | some t, none => some t
  | none, u => u

/-- The latest time stamp a record holds (R159), as dates order them (across the calendar's wrap log entry 62). -/
def latestStamp (r : Record) : Option Stamp :=
  let perBuilding := buildings.foldl (fun t b => latestOf t (latestOf r.at_[b].mute r.at_[b].clear)) none
  latestOf (latestOf r.start r.evacStart) (latestOf perBuilding (latestOf r.lastActivation r.lineQuiet))

/-- To close a record: outcome, and the end time, which is the closing's or the record's latest stamp if later (R159).
A closed record is never written again. Later is said of dates, as everywhere in the model: a stamp of day 36524 is
later than a closing on day 0 after the calendar's wrap (R6), though no backward step was made. R159 does not speak of
the wrap, and that is the model's choice (log entry 62). -/
def closeRecord (now : Option Stamp) (n : Nat) (o : RecordOutcome) (d : Dev) : Dev :=
  modRecord n (fun r =>
    if r.outcome.isSome then r
    else { r with outcome := some o, endTime := latestOf now (latestStamp r) }) d

/-- A building's clear time and elapsed clear seconds are written (R155, R167). -/
def writeClear (n : Nat) (b : Building) (t : Stamp) (start : Stamp) (d : Dev) : Dev :=
  let written (x : RecordBuilding) : RecordBuilding :=
    { x with clear := some t, elapsed := some (stampSeconds t - stampSeconds start) }
  modRecord n (fun r => { r with at_ := put r.at_ b (written r.at_[b]) }) d

/-- A building of a record has a clear time. -/
def hasClear (r : Record) (b : Building) : Bool := r.at_[b].clear.isSome

end Sys2Proof.Machine
end

