-- ==== Sys2Proof/Machine/Drill.lean ====
section
/-! DEFINITION. DC: starting and scheduling a drill (R148, R150), its phases (R151 to R153, R156), clear reports
(R155), cancelling (R157), the alarm hold (R161), and the supply events (R162). -/

namespace Sys2Proof.Machine

/-! ## The active drill -/

def modDrill (f : Drill → Drill) (d : Dev) : Dev := setDrill (d.dc.drill.map f) d

/-- The buildings whose trunk state satisfies `p`. -/
def drillWhere (dr : Drill) (p : TrunkState → Bool) : BuildingSet := bsWhere fun b => p dr.at_[b]

def mapTrunks (f : Building → TrunkState → TrunkState) (dr : Drill) : Drill :=
  { dr with at_ := Vector.ofFn fun b => f b dr.at_[b] }

/-- GRANTED or SOUNDING. -/
def drillHolds : TrunkState → Bool
  | .granted => true
  | .sounding => true
  | _ => false

/-- The record of the active drill shows a clear time for every drill building. -/
def allBuildingsClear (d : Dev) (dr : Drill) : Bool :=
  match recordOf d dr.record with
  | some r => (bsList dr.buildings).all (hasClear r)
  | none => false

def setDrillFasts (e : Env) (v : Bool) : List Building → Dev → Dev
  | [], d => d
  | b :: rest, d => setDrillFasts e v rest (setDrillFast e b v d)

/-- The drill is no longer active: its record is closed and DRILL ENDED is latched (R156, R157, R161, R162). -/
def endDrill (e : Env) (dr : Drill) (o : RecordOutcome) (d : Dev) : Dev :=
  latch .drillEnded (setDrill none (closeRecord e.now dr.record o d))

/-- DC places a clip of the script as a drill clip into every zone of every drill building, with an expiry count of
60 (R151, R156). Answers the id awaited. -/
def placeScriptClip (e : Env) (clip : Option Nat) (set : BuildingSet) (d : Dev) : Option Nat × Dev :=
  match clip with
  | none => (none, d)
  | some c =>
    match placeDrillClip e c (allZones set) 60 d with
    | (.taken id, d1) => (some id, d1)
    | (.refused _, d1) => (none, d1)

/-! ### EVAC -/

/-- A building's trunk state from TA's answer (R152). -/
def drillAnswer : ClaimAnswer → TrunkState
  | .granted => .granted
  | .excludedDisabled => .excluded
  | _ => .claiming

/-- DC claims some drill buildings and asks TA to apply those granted (R152 steps 4 and 5, R153). -/
def claimForDrill (which : List Building) (d : Dev) : Dev :=
  match d.dc.drill with
  | none => d
  | some dr =>
    let (as, d1) := claimSingle .drill .drill false (allZones dr.buildings) which d
    let d2 := modDrill (mapTrunks fun b s =>
      match answerOf as b with
      | some a => drillAnswer a
      | none => s) d1
    match dr.gen with
    | some g => if grantedSet as = 0 then d2 else applyBuildings .drill (grantedSet as) (.tg g) d2
    | none => d2

/-- On entering EVAC (R152). -/
def enterEvac (e : Env) (d : Dev) : Dev :=
  match d.dc.drill with
  | none => d
  | some dr =>
    let d1 := modRecord dr.record (fun r => { r with evacStart := e.now }) d
    let d2 := modDrill (fun x => { x with phase := .evac, count := 0, clip := none }) d1
    let (g, d3) := takeDrillGen e (patternOf d2 dr.script.pattern) d2
    let d4 := modDrill (fun x => { x with gen := some g, genStarted := false }) d3
    let d5 := claimForDrill (bsList dr.buildings) d4
    let d6 := wantLamps .dc .flash (bsList dr.buildings) d5
    setDrillFasts e true (bsList dr.buildings) d6

/-- The pre-delay begins; one of 0 is over at once (R151). -/
def beginPreDelay (e : Env) (d : Dev) : Dev :=
  match d.dc.drill with
  | none => d
  | some dr =>
    let d1 := modDrill (fun x => { x with clip := none, count := 0 }) d
    if dr.script.preDelay = 0 then enterEvac e d1 else d1

/-- PRE begins: the pre-clip is placed, and skipped where AM does not take it (R151). -/
def beginPre (e : Env) (d : Dev) : Dev :=
  match d.dc.drill with
  | none => d
  | some dr =>
    match placeScriptClip e dr.script.preClip dr.buildings d with
    | (some id, d1) => modDrill (fun x => { x with clip := some id }) d1
    | (none, d1) => beginPreDelay e d1

/-! ### ALLCLEAR, MUSTER and the end of EVAC -/

/-- On entering ALLCLEAR, with the outcome fixed (R156). -/
def enterAllClear (e : Env) (o : RecordOutcome) (d : Dev) : Dev :=
  match d.dc.drill with
  | none => d
  | some dr =>
    let d1 := modDrill (fun x => { x with phase := .allClear, outcome := some o, clip := none }) d
    let d2 := setDrillFasts e false (bsList dr.buildings) d1
    let d3 := wantLamps .dc .off (bsList dr.buildings) d2
    match placeScriptClip e dr.script.allClear dr.buildings d3 with
    | (some id, d4) => modDrill (fun x => { x with clip := some id }) d4
    | (none, d4) => endDrill e dr o d4

/-- DC releases what the drill holds and gives the generator back (R153, R157, R161). -/
def giveUpTrunks (dr : Drill) (d : Dev) : Dev :=
  let d1 := releaseSet .drill (drillWhere dr drillHolds) d
  match dr.gen with
  | some g => freeGen g d1
  | none => d1

/-- The clear limit has been reached with a building not clear (R156). -/
def checkClearLimit (e : Env) (d : Dev) : Dev :=
  match d.dc.drill with
  | some dr => if dr.script.clearLimit ≤ dr.count then enterAllClear e .timeout d else d
  | none => d

/-- The phase count reaches the evacuation duration (R153): the trunks and the generator are given up, and the drill
enters ALLCLEAR or MUSTER. A clear limit equal to the evacuation duration has then been reached too (log entry 28). -/
def endEvac (e : Env) (d : Dev) : Dev :=
  match d.dc.drill with
  | none => d
  | some dr =>
    let d1 := modDrill (fun x =>
      { mapTrunks (fun _ s => if drillHolds s || s == .claiming then .released else s) x with
        gen := none, genStarted := false }) (giveUpTrunks dr d)
    if allBuildingsClear d1 dr then enterAllClear e .complete d1
    else checkClearLimit e (modDrill (fun x => { x with phase := .muster }) d1)

/-! ### Starting (R148, R150) -/

/-- The script's evacuation pattern is defined and not EMPTY (R148 check 4). -/
def usableScript (d : Dev) (n : Fin 4) : Option Script :=
  match d.dc.scripts[n] with
  | some s => if patternOf d s.pattern = [] then none else some s
  | none => none

/-- A drill starts: its record is opened, the active drill made, and PRE begun (R148). Answers the record number. -/
def startDrill (e : Env) (n : Fin 4) (s : Script) (set : BuildingSet) (d : Dev) : Nat × Dev :=
  let (rec, d1) := openRecord (.drill n) set e.now d
  let dr : Drill :=
    { script := s, buildings := set, record := rec, phase := .pre, count := 0, clip := none,
      at_ := Vector.replicate 8 .none, gen := none, genStarted := false, outcome := none }
  (rec, beginPre e (setDrill (some dr) d1))

def setResult (r : ScheduledResult) (d : Dev) : Dev := { d with dc := { d.dc with lastResult := r } }

def setDrillSlot (p : Option DrillPlan) (d : Dev) : Dev := { d with dc := { d.dc with slot := p } }

/-- A scheduled drill does not start (R150). -/
def notStarted (r : NotStarted) (d : Dev) : Dev := latch .drillEnded (setResult (.notStarted r) d)

/-- The scheduled drill arrives (R150). -/
def scheduledArrives (e : Env) (p : DrillPlan) (d : Dev) : Dev :=
  let d1 := setDrillSlot none d
  if d1.ah.hold then notStarted .alarm d1
  else if d1.dc.drill.isSome then notStarted .active d1
  else
    match usableScript d1 p.script with
    | none => notStarted .notFound d1
    | some s =>
      let (rec, d2) := startDrill e p.script s p.buildings d1
      setResult (.started rec) d2

/-- The slot's moment is at or before a campus time (R150, R162). -/
def planReached (p : DrillPlan) (now : Option Stamp) : Bool := now.any fun t => stampLe p.moment t

/-! ### Events -/

/-- The active drill's part of a second event (R151, R153, R156). -/
def drillSecond (e : Env) (d : Dev) : Dev :=
  match d.dc.drill with
  | none => d
  | some dr =>
    let counted := modDrill (fun x => { x with count := x.count + 1 }) d
    match dr.phase with
    | .pre =>
      if dr.clip.isSome then d
      else if dr.script.preDelay ≤ dr.count + 1 then enterEvac e counted
      else counted
    | .evac =>
      if dr.script.evacuation ≤ dr.count + 1 then endEvac e counted
      else
        match bsList (drillWhere dr (· == .claiming)) with
        | [] => counted
        | which => claimForDrill which counted
    | .muster => checkClearLimit e counted
    | .allClear => d

/-- DC's part of a second event: the active drill, the scheduled drill, and the lamps a full queue refused. -/
def dcSecond (e : Env) (ev : SecondEvent) (d : Dev) : Dev :=
  let d1 := drillSecond e d
  let d2 :=
    match d1.dc.slot with
    | some p => if planReached p ev.new then scheduledArrives e p d1 else d1
    | none => d1
  lampSecond .dc d2

/-- A trunk-free event reaches DC (R153). -/
def dcTrunkFree (b : Building) (d : Dev) : Dev :=
  match d.dc.drill with
  | some dr => if dr.phase = .evac ∧ dr.at_[b] = .claiming then claimForDrill [b] d else d
  | none => d

/-- STARTED for the drill (R153). -/
def drillStarted (e : Env) (members : BuildingSet) (d : Dev) : Dev :=
  match d.dc.drill with
  | none => d
  | some dr =>
    if dr.phase ≠ .evac then d
    else
      let d1 := modDrill (mapTrunks fun b s =>
        if s = .granted then (if bsHas members b then .sounding else .claiming) else s) d
      match dr.gen with
      | some g =>
        if members ≠ 0 ∧ dr.genStarted = false then
          startGen e g (modDrill (fun x => { x with genStarted := true }) d1)
        else d1
      | none => d1

/-- FAILED for a drill building (R153). -/
def drillNotice (b : Building) (d : Dev) : Dev :=
  match d.dc.drill with
  | some dr =>
    if dr.phase = .evac ∧ drillHolds dr.at_[b] = true then
      modDrill (mapTrunks fun c s => if c = b then .claiming else s) d
    else d
  | none => d

/-- The outcome of a drill clip reaches DC (R151, R156). -/
def clipOver (e : Env) (id : Nat) (d : Dev) : Dev :=
  match d.dc.drill with
  | none => d
  | some dr =>
    if dr.clip ≠ some id then d
    else
      match dr.phase with
      | .pre => beginPreDelay e d
      | .allClear => endDrill e dr (dr.outcome.getD .complete) d
      | _ => d

/-- A marshal panel's answer with a press reaches DC (R155): the building's clear time is set while the drill is in
EVAC or MUSTER, and a MUSTER with every building clear is over at once (R156). -/
def drillClear (e : Env) (b : Building) (age : Option Nat) (reply : Option Stamp) (d : Dev) : Dev :=
  match d.dc.drill with
  | none => d
  | some dr =>
    match age, reply, recordOf d dr.record with
    | some a, some t, some r =>
      match r.evacStart with
      | some start =>
        if (dr.phase = .evac ∨ dr.phase = .muster) ∧ bsHas dr.buildings b = true ∧ hasClear r b = false then
          let d1 := writeClear dr.record b (pressTime t a start) start d
          if dr.phase = .muster ∧ allBuildingsClear d1 dr = true then enterAllClear e .complete d1 else d1
        else d
      | none => d
    | _, _, _ => d

/-- A marshal panel's answer reaches DC (R154, R155). That the lamp it shows is looked at before the press it carries is the
model's choice (log entry 48). -/
def dcPanel (e : Env) (b : Building) (age : Option Nat) (lamp : LampState) (reply : Option Stamp) (d : Dev) : Dev :=
  drillClear e b age reply (lampShown .dc b lamp d)

/-- DRILL CANCEL with a drill active (R157). -/
def cancelDrill (e : Env) (dr : Drill) (d : Dev) : Dev :=
  let d1 := match dr.clip with
    | some id => withdrawClip e id d
    | none => d
  match dr.phase with
  | .allClear => endDrill e dr (dr.outcome.getD .complete) d1
  | .pre => endDrill e dr .aborted d1
  | _ =>
    let d2 := setDrillFasts e false (bsList dr.buildings) (giveUpTrunks dr d1)
    endDrill e dr .aborted (wantLamps .dc .off (bsList dr.buildings) d2)

/-! ### The alarm hold, backup and RESTART -/

/-- The alarm hold begins (R161). -/
def dcAlarm (e : Env) (d : Dev) : Dev :=
  match d.dc.drill with
  | none => d
  | some dr =>
    endDrill e dr .alarmOverride
      (setDrillFasts e false (bsList dr.buildings) (noLamps .dc (giveUpTrunks dr d)))

/-- Every drill building's lamp wanted becomes OFF, kept for later (R162). -/
def keepOffs (set : BuildingSet) (d : Dev) : Dev :=
  let lamps := Vector.ofFn fun b : Building =>
    if bsHas set b then { d.dc.lamps[b] with wanted := some .off } else d.dc.lamps[b]
  { d with dc := { d.dc with lamps := lamps } }

/-- A drill that is cut off leaves its lamps wanted OFF (R162): at entry to backup if it had reached EVAC, at RESTART
as R157 would set them, which in ALLCLEAR leaves them as they are. -/
def leavesLampsOff (o : RecordOutcome) (p : DrillPhase) : Bool :=
  match p with
  | .pre => false
  | .evac => true
  | .muster => true
  | .allClear => o == .abortedPower

/-- The active drill is cut off by the supply or by a RESTART (R162). -/
def dcCutOff (e : Env) (o : RecordOutcome) (d : Dev) : Dev :=
  let d1 := clearOutstanding .dc d
  match d1.dc.drill with
  | none => d1
  | some dr => endDrill e dr o (if leavesLampsOff o dr.phase then keepOffs dr.buildings d1 else d1)

/-- Lamps wanted OFF are placed, unless the hold is in force (R162). -/
def dcLampsAfter (d : Dev) : Dev := if d.ah.hold then noLamps .dc d else placeOffs .dc buildings d

/-- RESTORE (R162). -/
def dcRestore (e : Env) (restoreTime : Option Stamp) (d : Dev) : Dev :=
  let d1 := setDrillFasts e false buildings d
  let d2 :=
    match d1.dc.slot with
    | some p => if planReached p restoreTime then notStarted .outage (setDrillSlot none d1) else d1
    | none => d1
  dcLampsAfter d2

end Sys2Proof.Machine
end

