-- ==== Sys2Proof/Machine/Alarm.lean ====
section
/-! DEFINITION. AH: the fire-panel input (R163), the beginning of the hold and its record (R164 to R168), the lamps
(R169), the end of the hold (R171), and the supply events (R172). -/

namespace Sys2Proof.Machine

def setAh (x : AlarmHold) (d : Dev) : Dev := { d with ah := x }

/-! ## The input (R163) -/

/-- FIRE is read afresh: a level that differs from the input state is timed from now. -/
def timeFire (e : Env) (d : Dev) : Dev :=
  setAh { d.ah with timing := if d.ah.level = d.ah.active then none else some e.clock } d

/-- FIRE changes level. The input is timed only while the device runs. -/
def fireLevel (e : Env) (v : Bool) (d : Dev) : Dev :=
  let d1 := setAh { d.ah with level := v } d
  if e.running then timeFire e d1 else setAh { d1.ah with timing := none } d1

/-! ## The hold (R164, R165) -/

/-- Every building with at least one station configured (R165). -/
def stationedBuildings (d : Dev) : BuildingSet := bsWhere fun b => !d.bus[b].rows.isEmpty

/-- Alarm mode is ordered on a bus, its alarm-fast flag set, and the LAMP ON placed marked as outstanding (R164
steps 6 to 8, R172). -/
def alarmBus (e : Env) (b : Building) (d : Dev) : Dev :=
  let (serial, d1) := orderAlarmMode b d
  let d2 := setAlarmFast e b true d1
  match serial with
  | some n => setAhLamp b { wanted := some .on, outstanding := some n, full := false } d2
  | none => d2

def alarmBuses (e : Env) : List Building → Dev → Dev
  | [], d => d
  | b :: rest, d => alarmBuses e rest (alarmBus e b d)

/-- The hold begins (R164). -/
def beginHold (e : Env) (d : Dev) : Dev :=
  let d1 := dcAlarm e (setAh { d.ah with hold := true } d)
  let (n, d2) := openRecord .alarm (stationedBuildings d1) e.now d1
  let d3 := puAlarm (amAlarm e (rsAlarm e (setAh { d2.ah with record := some n } d2)))
  latch .alarm (alarmBuses e buildings (forceTrunks d3))

/-- The open alarm record is rewritten. -/
def modAlarmRecord (f : Record → Record) (d : Dev) : Dev :=
  match d.ah.record with
  | some n => modRecord n f d
  | none => d

/-- FIRE has stayed asserted for 1 s (R163, R168). -/
def activationTaken (e : Env) (d : Dev) : Dev :=
  let d1 := setAh { d.ah with active := true, timing := none } d
  if d.ah.hold then
    modAlarmRecord (fun r =>
      { r with activations := min 255 (r.activations + 1), lastActivation := e.now.or r.lastActivation }) d1
  else beginHold e d1

/-- FIRE has stayed deasserted for 10 s (R163, R168). -/
def quietingTaken (e : Env) (d : Dev) : Dev :=
  let d1 := setAh { d.ah with active := false, timing := none } d
  if d.ah.hold then modAlarmRecord (fun r => { r with lineQuiet := e.now.or r.lineQuiet }) d1 else d1

/-! ## What AH writes into its record -/

def writeMute (n : Nat) (b : Building) (t : Stamp) (d : Dev) : Dev :=
  let written (x : RecordBuilding) : RecordBuilding := { x with mute := some t }
  modRecord n (fun r => { r with at_ := put r.at_ b (written r.at_[b]) }) d

/-- The outcome of a MUTE of AH's (R166). A time of day 0 is earlier than a start on the last day before the
calendar's wrap, so the start is then written (the model's choice, log entry 62). -/
def muteOutcome (b : Building) (o : CmdOutcome) (d : Dev) : Dev :=
  match d.ah.record, o with
  | some n, .done _ (some t) =>
    match recordOf d n with
    | some r =>
      match r.start with
      | some start =>
        if bsHas r.buildings b = true ∧ r.at_[b].mute = none then writeMute n b (stampMax start t) d else d
      | none => d
    | none => d
  | _, _ => d

/-- A marshal's press reaches AH (R167). -/
def alarmClear (b : Building) (age : Option Nat) (reply : Option Stamp) (d : Dev) : Dev :=
  match d.ah.record, age, reply with
  | some n, some a, some t =>
    match recordOf d n with
    | some r =>
      match r.start with
      | some start =>
        if d.ah.hold = true ∧ bsHas r.buildings b = true ∧ hasClear r b = false then
          writeClear n b (pressTime t a start) start d
        else d
      | none => d
    | none => d
  | _, _, _ => d

/-- A marshal panel's answer reaches AH (R167, R169). -/
def ahPanel (b : Building) (age : Option Nat) (lamp : LampState) (reply : Option Stamp) (d : Dev) : Dev :=
  alarmClear b age reply (lampShown .ah b lamp d)

/-- The outcome of a command of AH's. -/
def takeAhOutcome (b : Building) (c : Command) (o : CmdOutcome) (d : Dev) : Dev :=
  match c.op with
  | .mute => muteOutcome b o d
  | .lamp _ => lampOutcome .ah b c o d
  | _ => d

/-! ## The end of the hold (R171) -/

def normalBuses (e : Env) : List Building → Dev → Dev
  | [], d => d
  | b :: rest, d => normalBuses e rest (setAlarmFast e b false (orderNormalMode b d))

/-- The buildings with a marshal panel configured. -/
def panelBuildings (d : Dev) : List Building :=
  buildings.filter fun b => (rowOfKind d.bus[b] .marshalPanel).isSome

/-- ALARM RESUME is taken (R171). -/
def resumeHold (e : Env) (d : Dev) : Dev :=
  let d1 := match d.ah.record with
    | some n => closeRecord e.now n .resumed d
    | none => d
  let d2 := normalBuses e buildings (setAh { d1.ah with record := none, hold := false } d1)
  let d3 := freeTrunks d2
  wantLamps .ah .off (panelBuildings d3) d3

/-! ## Supply events and RESTART (R172) -/

def ahBackup (d : Dev) : Dev := clearOutstanding .ah (setAh { d.ah with timing := none } d)

/-- The LAMP ON that a bus in alarm mode places at RESTORE is marked as outstanding. -/
def markLamps : List (Building × Option Nat) → Dev → Dev
  | [], d => d
  | (b, some n) :: rest, d => markLamps rest (setAhLamp b { d.ah.lamps[b] with outstanding := some n, full := false } d)
  | (_, none) :: rest, d => markLamps rest d

/-- RESTORE, given the LAMP ONs that the buses have placed (R172). -/
def ahRestore (e : Env) (placed : List (Building × Option Nat)) (d : Dev) : Dev :=
  timeFire e
    (if d.ah.hold then markLamps placed d else placeOffs .ah buildings (clearOutstanding .ah d))

def ahRestart (d : Dev) : Dev := setAh { d.ah with timing := none } d

/-- RESTART ends (R172). -/
def ahRestartEnds (e : Env) (d : Dev) : Dev :=
  timeFire e
    (if d.ah.hold then alarmBuses e buildings (forceTrunks d)
     else placeOffs .ah buildings (clearOutstanding .ah d))

end Sys2Proof.Machine
end

