-- ==== Sys2Proof/Machine/Lines.lean ====
section
/-! DEFINITION. LC: target, gap and state (R44, R46), evaluation (R47), impulses and their outcomes (R48 to R52),
probes and faults (R53 to R55), the driver's presence and reconciliation (R56, R57), time steps (R58) and the supply
events (R59 to R61). -/

namespace Sys2Proof.Machine

/-- The sixteen lines, in the order in which LC takes them where one event concerns several: the spec is silent, and
ascending line number is the model's choice (log entry 39). -/
def lineNos : List LineNo := List.finRange 16

def modLine (i : LineNo) (f : Line → Line) (d : Dev) : Dev :=
  match d.lines[i] with
  | some l => setLine i (some (f l)) d
  | none => d

def opposite : Polarity → Polarity
  | .pos => .neg
  | .neg => .pos

/-- The polarity at which a movement stands at a minute: POS at an odd one (R45, R50). -/
def parityOf (p : Nat) : Polarity := if p % 2 = 1 then .pos else .neg

/-! ## Target, gap, state (R44, R46) -/

/-- The target T (R46). -/
def target (span : Nat) (sec : Nat) : Nat := sec / 60 % span

/-- The gap G = (T − P) modulo D (R46). -/
def gap (span t p : Nat) : Nat := (t + span - p) % span

/-- The lead A = D − G (R46). -/
def lead (span g : Nat) : Nat := span - g

/-- The first state of R44's table whose condition holds. -/
def lineStateOf (now : Option Stamp) (l : Line) : LineState :=
  if !l.enabled then .disabled
  else
    match l.pos with
    | none => .unset
    | some p =>
      if l.view ≠ .online then .offline
      else if l.probe.isSome then .probe
      else if l.fault.isSome then .fault
      else
        match now with
        | none => .noTime
        | some t =>
          let g := gap l.span (target l.span t.sec) p
          if g = 0 then .run else if lead l.span g ≤ l.hold then .hold else .advance

/-- The state is recomputed, and nothing issued. -/
def restate (e : Env) (i : LineNo) (d : Dev) : Dev := modLine i (fun l => { l with state := lineStateOf e.now l }) d

/-! ## Issuing (R48, R49) -/

/-- A line in ADVANCE with no impulse in flight and its pace reached (R48). -/
def mayIssue (l : Line) : Bool := l.state = .advance && l.inFlight.isNone && decide (l.catchUp ≤ l.pace)

/-- R48: where the line may, LC enqueues IMPULSE of the opposite polarity and acts on the answer (R49). -/
def tryIssue (e : Env) (i : LineNo) (d : Dev) : Dev :=
  match d.lines[i] with
  | none => d
  | some l =>
    match mayIssue l, l.pol with
    | true, some p =>
      match enqueue l.building l.addr (.impulse (opposite p) l.width) (.lc i) d with
      | (.accepted _, d1) => modLine i (fun l => { l with inFlight := some (opposite p), pace := 0 }) d1
      | (.stationOffline, d1) => restate e i (modLine i (fun l => { l with view := .offline }) d1)
      | (.notConfigured, d1) => restate e i (modLine i (fun l => { l with view := .absent }) d1)
      | (_, d1) => d1
    | _, _ => d

/-- LC evaluates a line: its state is recomputed, and R48 applied (R47). -/
def evaluate (e : Env) (i : LineNo) (d : Dev) : Dev := tryIssue e i (restate e i d)

/-- Several lines are evaluated at one event, in the order given (R47; log entry 39). -/
def evaluateAll (e : Env) : List LineNo → Dev → Dev
  | [], d => d
  | i :: rest, d => evaluateAll e rest (evaluate e i d)

/-! ## Probes (R54, R55) -/

/-- The fault that a probe's result sets or clears (R54). -/
def faultAfter (r : ProbeResult) (f : Option FaultCause) : Option FaultCause :=
  match r with
  | .ok _ => none
  | .lineOpen => some .probeOpen
  | .short => some .probeShort
  | .none => f

def isFaultResult : ProbeResult → Bool
  | .lineOpen => true
  | .short => true
  | _ => false

/-- A probe ends with a result, stamped with the campus time of its answer or of its ending (R54). -/
def endProbe (e : Env) (i : LineNo) (r : ProbeResult) (d : Dev) : Dev :=
  match d.lines[i] with
  | none => d
  | some l =>
    let d1 := modLine i (fun l =>
      { l with
        lastProbe := r, lastProbeAt := e.now, fault := faultAfter r l.fault, probe := none, faultWait := 0 }) d
    evaluate e i (if isFaultResult r && l.fault.isNone then latch .lineFault d1 else d1)

/-- A driver that cannot be reached any more: the view is set, a probe in progress ends NONE, and the line is
evaluated (R52, R54, R56). -/
def loseDriver (e : Env) (i : LineNo) (v : DriverView) (d : Dev) : Dev :=
  match d.lines[i] with
  | none => d
  | some l =>
    let d1 := modLine i (fun l => { l with view := v }) d
    if l.probe.isSome then endProbe e i .none d1 else evaluate e i d1

/-- A PENDING probe is placed when no impulse is in flight (R54). -/
def tryProbe (e : Env) (i : LineNo) (d : Dev) : Dev :=
  match d.lines[i] with
  | none => d
  | some l =>
    match l.probe, l.inFlight with
    | some (origin, .pending), none =>
      match enqueue l.building l.addr .probe (.lc i) d with
      | (.accepted _, d1) => modLine i (fun l => { l with probe := some (origin, .sent) }) d1
      | (.stationOffline, d1) => loseDriver e i .offline d1
      | (.notConfigured, d1) => loseDriver e i .absent d1
      | (_, d1) => d1
    | _, _ => d

/-- A probe begins, PENDING, and the line enters PROBE (R53, R55). -/
def beginProbe (e : Env) (i : LineNo) (origin : ProbeOrigin) (d : Dev) : Dev :=
  tryProbe e i (evaluate e i (modLine i (fun l => { l with probe := some (origin, .pending) }) d))

/-! ## Outcomes (R50 to R52) -/

/-- The impulse's step is counted: P, polarity and counter (R50, R57). -/
def countStep (p : Polarity) (l : Line) : Line :=
  { l with pos := l.pos.map fun n => (n + 1) % l.span, pol := some p, counter := l.counter + 1 }

/-- DRIVEN or ALREADY confirms the impulse, unless reconciliation has counted it or the line has no dial position
(R50). -/
def confirm (p : Polarity) (l : Line) : Line :=
  if l.pos.isSome ∧ l.pol ≠ some p then countStep p l else l

/-- An IMPULSE outcome (R50 to R52). -/
def impulseOutcome (e : Env) (i : LineNo) (p : Polarity) (o : CmdOutcome) (d : Dev) : Dev :=
  let cleared (l : Line) : Line := { l with inFlight := none }
  match o with
  | .done (some .short) _ =>
    let d1 := modLine i (fun l => { cleared l with fault := some .impulseShort, faultWait := 0 }) d
    tryProbe e i (evaluate e i (latch .lineFault d1))
  | .done _ _ => tryProbe e i (evaluate e i (modLine i (fun l => cleared (confirm p l)) d))
  | .failed => loseDriver e i .offline (modLine i cleared d)
  | .discarded .stationLost => loseDriver e i .offline (modLine i cleared d)
  | .discarded .removed => loseDriver e i .absent (modLine i cleared d)
  | .discarded .alarmMode => tryProbe e i (evaluate e i (modLine i cleared d))

/-- A PROBE outcome (R54); it is about a probe that is SENT. -/
def probeOutcome (e : Env) (i : LineNo) (o : CmdOutcome) (d : Dev) : Dev :=
  match d.lines[i] with
  | none => d
  | some l =>
    match l.probe with
    | some (origin, .sent) =>
      match o with
      | .done _ _ => modLine i (fun l => { l with probe := some (origin, .reading) }) d
      | .failed => loseDriver e i .offline d
      | .discarded .stationLost => loseDriver e i .offline d
      | .discarded .removed => loseDriver e i .absent d
      | .discarded .alarmMode => endProbe e i .none d
    | _ => d

/-- The outcome of a command of LC's, for a line that still names its driver (log entry 30). -/
def takeLcOutcome (e : Env) (b : Building) (i : LineNo) (c : Command) (o : CmdOutcome) (d : Dev) : Dev :=
  match d.lines[i] with
  | none => d
  | some l =>
    if l.building = b ∧ l.addr = c.addr then
      match c.op with
      | .impulse p _ => impulseOutcome e i p o d
      | .probe => probeOutcome e i o d
      | _ => d
    else d

/-! ## The driver's presence (R56, R57) -/

/-- The configured line that names a driver. -/
def lineOfDriver (d : Dev) (b : Building) (addr : Nat) : Option LineNo :=
  lineNos.find? fun i => (d.lines[i]).any fun l => l.building == b && l.addr == addr

/-- STATION ONLINE of a line's driver: the latch is stored and the record reconciled (R57). -/
def reconcile (latched : Polarity) (l : Line) : Line :=
  { confirm latched l with latch := some latched, view := .online }

def driverReports (e : Env) (b : Building) (addr : Nat) (latched : Polarity) (d : Dev) : Dev :=
  match lineOfDriver d b addr with
  | some i => evaluate e i (modLine i (reconcile latched) d)
  | none => d

/-- STATION LOST or removal of a line's driver (R56). -/
def driverGone (e : Env) (b : Building) (addr : Nat) (v : DriverView) (d : Dev) : Dev :=
  match lineOfDriver d b addr with
  | some i => loseDriver e i v d
  | none => d

/-- A probe result that the controller delivers (R30, R54). -/
def probeFound (e : Env) (b : Building) (addr : Nat) (r : ProbeResult) (latched : Option Polarity) (d : Dev) : Dev :=
  match lineOfDriver d b addr with
  | some i =>
    let d1 := modLine i (fun l => { l with latch := latched.or l.latch }) d
    match d1.lines[i] with
    | some l =>
      match l.probe with
      | some (_, .reading) => endProbe e i r d1
      | _ => d1
    | none => d1
  | none => d

/-! ## Second events, steps, supply -/

/-- The counts of a line at a second event (R48, R55). -/
def countLine (l : Line) : Line :=
  { l with
    pace := min 10 (l.pace + 1)
    faultWait := if l.fault.isSome then min 30 (l.faultWait + 1) else l.faultWait }

/-- A fault probe becomes PENDING at this second event (R55). -/
def faultProbeReady (l : Line) : Bool :=
  l.fault.isSome && l.faultWait == 30 && l.enabled && l.view == .online && l.probe.isNone

/-- A line's part of a second event (R47, R48, R54, R55), in the order of log entry 57. -/
def lineSecond (e : Env) (i : LineNo) (ev : SecondEvent) (d : Dev) : Dev :=
  let d1 := modLine i countLine d
  let d2 := if ev.minute || ev.step.isSome then evaluate e i d1 else tryIssue e i d1
  match d2.lines[i] with
  | some l => if faultProbeReady l then beginProbe e i .fault d2 else tryProbe e i d2
  | none => d2

/-- LC's part of a second event: every configured line in turn, in the model's order (log entry 39). -/
def lcSecond (ev : SecondEvent) (d : Dev) : Dev :=
  pushAll ((lineNos.filter fun i => (d.lines[i]).isSome).map fun i => .lineSecond i ev) d

/-- A time-step event reaches LC (R58). -/
def lcStep (e : Env) (d : Dev) : Dev := evaluateAll e lineNos d

def mapLines (f : Line → Line) (d : Dev) : Dev := { d with lines := tabMap (fun o => o.map f) d.lines }

/-- Entry to backup (R59). -/
def lcBackup (d : Dev) : Dev := mapLines (fun l => { l with inFlight := none, probe := none }) d

/-- RESTORE (R60). -/
def lcRestore (e : Env) (d : Dev) : Dev :=
  let d1 := mapLines (fun l => { l with view := .unknown, pace := 10, faultWait := 0 }) d
  let d2 := evaluateAll e lineNos d1
  if d2.lines.toList.any fun o => o.any fun l => l.pos.isNone then latch .lineUnset d2 else d2

/-- RESTART begins (R61). -/
def lcRestart (d : Dev) : Dev :=
  mapLines (fun l =>
    { l with inFlight := none, probe := none, pace := 10, faultWait := 0, view := .unknown }) d

/-- RESTART ends: every line is evaluated (R61). -/
def lcRestartEnds (e : Env) (d : Dev) : Dev := evaluateAll e lineNos d

/-! ## Configuration (R42, R45) -/

/-- The view that a station's state in the station table gives (R42). -/
def viewOf : StationState → DriverView
  | .unknown => .unknown
  | .online => .online
  | .offline => .offline

/-- The record that LINE CONFIG writes afresh (R42). -/
def freshLine (b : Building) (addr span hold catchUp width : Nat) (view : DriverView) : Line :=
  { building := b, addr := addr, span := span, hold := hold, catchUp := catchUp, width := width, enabled := true,
    pos := none, setPos := none, pol := none, counter := 0, inFlight := none, pace := 10, fault := none,
    faultWait := 0, probe := none, lastProbe := .none, lastProbeAt := none, view := view, latch := none,
    state := .unset }

/-- What DIAL SET gives a line (R45). -/
def setDial (hh mm : Nat) (l : Line) : Line :=
  let p := (hh * 60 + mm) % l.span
  { l with pos := some p, setPos := some p, pol := some (parityOf p), counter := 0 }

end Sys2Proof.Machine
end

