-- ==== Sys2Proof/Machine/Timetable.lean ====
section
/-! DEFINITION. TT: resolving a date (R71), loading and re-resolving today (R72, R73), day marks (R74), falling due
(R75 to R77), time steps (R78 to R80) and the supply events (R81 to R83). -/

namespace Sys2Proof.Machine

def setTt (x : Timetable) (d : Dev) : Dev := { d with tt := x }

def setPlan (p : PlanNo) (l : List Entry) (d : Dev) : Dev := setTt { d.tt with plans := put d.tt.plans p l } d

/-! ## The calendar (R71) -/

/-- The exception row that covers a day. -/
def coveringRow (d : Dev) (day : Nat) : Option ExceptionRow :=
  d.tt.exceptions.find? fun r => r.first ≤ day && day ≤ r.last

/-- The plan that governs a date (R71). -/
def resolve (d : Dev) (day : Nat) : PlanRef :=
  match coveringRow d day with
  | some r => r.plan
  | none => d.tt.week[weekday day]

/-! ## Today's entries -/

def isToday (d : Dev) (p : PlanNo) : Bool := d.tt.todayPlan = some (.plan p)

/-- The entries of today's plan, in index order. -/
def todayEntries (d : Dev) : List Entry :=
  match d.tt.todayPlan with
  | some (.plan p) => d.tt.plans[p]
  | _ => []

def modToday (f : Entry → Entry) (d : Dev) : Dev :=
  match d.tt.todayPlan with
  | some (.plan p) => setPlan p ((d.tt.plans[p]).map f) d
  | _ => d

def markOf (x : Entry) : Option Mark := x.day.map fun m => m.mark

def isPending (x : Entry) : Bool := markOf x = some .pending

def isSent (x : Entry) : Bool := markOf x = some .sent

/-- A mark that latches RING MISSED as it is taken (R74). -/
def isMissMark : Mark → Bool
  | .missed => true
  | .partly => true
  | _ => false

def withMark (m : Mark) (x : Entry) : Entry := { x with day := x.day.map fun k => { k with mark := m } }

/-- The entry of today's plan in a pool slot takes a mark (R74). -/
def markEntry (slot : Nat) (m : Mark) (d : Dev) : Dev :=
  let d1 := modToday (fun x => if x.slot == slot then withMark m x else x) d
  if isMissMark m then latch .ringMissed d1 else d1

/-- The entries of today's plan that satisfy `p` become MISSED (R74). -/
def missWhere (p : Entry → Bool) (d : Dev) : Dev :=
  if (todayEntries d).any p then
    latch .ringMissed (modToday (fun x => if p x then withMark .missed x else x) d)
  else d

/-- A mark with its late flag clear and no pass time. -/
def plainMark (m : Mark) : DayMark := { mark := m, late := false, pass := none }

/-- The marks of today's plan are given up. -/
def dropMarks (d : Dev) : Dev := modToday (fun x => { x with day := none }) d

/-- The fresh mark of R73: PENDING after the high-water second, MISSED otherwise. -/
def freshMark (highWater : Option Nat) (time : Nat) : Mark :=
  match highWater with
  | some h => if h < time then .pending else .missed
  | none => .pending

/-- TT loads a date, with the high-water second given (R72). -/
def loadDate (date sec : Nat) (d : Dev) : Dev :=
  let d1 := dropMarks d
  modToday (fun x => { x with day := some (plainMark .pending) })
    (setTt { d1.tt with today := some date, todayPlan := some (resolve d1 date), highWater := some sec } d1)

/-- TT re-resolves today (R73). While time is INVALID there is no today. -/
def reResolve (d : Dev) : Dev :=
  match d.tt.today with
  | none => d
  | some day =>
    let r := resolve d day
    if d.tt.todayPlan = some r then d
    else
      let d1 := dropMarks d
      let d2 := setTt { d1.tt with todayPlan := some r } d1
      let d3 := modToday (fun x => { x with day := some (plainMark (freshMark d2.tt.highWater x.time)) }) d2
      if (todayEntries d3).any fun x => markOf x = some .missed then latch .ringMissed d3 else d3

/-- TT raises the high-water second (R75, R78, R82). -/
def raiseHighWater (sec : Nat) (d : Dev) : Dev :=
  setTt { d.tt with highWater := d.tt.highWater.map fun h => max h sec } d

/-! ## Falling due (R75 to R77) -/

/-- The mark that goes with an outcome of RS (R76). -/
def markOfOutcome (late : Bool) : RingOutcome → Mark
  | .rung => if late then .late else .rung
  | .partly => .partly
  | .missed => .missed
  | .suppressed => .suppressed

/-- A ring request from TT (R108): an EMPTY pattern is RUNG at once, and without a free slot the ring is MISSED. -/
def ringRequest (e : Env) (ref : EntryRef) (pattern : Nat) (zones : ZoneSet) (d : Dev) : RingAnswer × Dev :=
  if patternOf d pattern = [] then (.outcome .rung, d)
  else
    match createRun e (.entry ref) pattern zones (some ref.pass) d with
    | (.noSlot, d1) => (.outcome .missed, d1)
    | r => r

/-- An entry that falls due is suppressed during the hold, or passed to RS or to AM, and marked from the answer
(R75, R76, R77). It is passed on only from PENDING. Under the hold nothing is passed on (R75), so an entry that a forward
step reaches late (R78) takes SUPPRESSED with its late flag clear and no pass time: the rules do not say whether R78's late
flag goes with it, and that it stays clear is the model's choice (log entry 58). -/
def passEntry (e : Env) (slot : Nat) (late : Bool) (pass : Stamp) (d : Dev) : Dev :=
  match d.tt.todayPlan, (todayEntries d).find? fun x => x.slot == slot with
  | some (.plan p), some x =>
    if !isPending x then d
    else if d.ah.hold then markEntry slot .suppressed d
    else
      let ref : EntryRef := { plan := p, slot := slot, pass := pass }
      let d1 := modToday (fun y =>
        if y.slot == slot then { y with day := some { mark := .pending, late := late, pass := some pass } } else y) d
      match x.kind with
      | .ring n =>
        match ringRequest e ref n x.zones d1 with
        | (.outcome o, d2) => markEntry slot (markOfOutcome late o) d2
        | (_, d2) => markEntry slot .sent d2
      | .clip c u =>
        match clipEntry ref c x.zones u d1 with
        | (.taken _, d2) => markEntry slot .queuedClip d2
        | (.refused .refused, d2) => markEntry slot .suppressed d2
        | (.refused _, d2) => markEntry slot .missed d2
  | _, _ => d

/-- A later outcome of RS, taken when it is for the very pass that the SENT mark stands for (R76). -/
def takeRingOutcome (ref : EntryRef) (o : RingOutcome) (d : Dev) : Dev :=
  if !isToday d ref.plan then d
  else
    match (todayEntries d).find? fun x => x.slot == ref.slot with
    | some x =>
      match x.day with
      | some m =>
        if m.mark = .sent ∧ m.pass = some ref.pass then markEntry ref.slot (markOfOutcome m.late o) d else d
      | none => d
    | none => d

/-- Entries of today's plan fall due at a second (R75 step 4). -/
def entriesDue (now : Option Stamp) (sec : Nat) (d : Dev) : Dev :=
  match now with
  | some t =>
    pushAll (((todayEntries d).filter fun x => isPending x && x.time == sec).map fun x => .ttPass x.slot false t) d
  | none => d

/-! ## Time steps (R78 to R80) -/

/-- A time step reaches TT: a change of date loads it and passes on what is due at the new second (R80); a forward
step passes on what lies within the late window (R78); a backward one changes nothing (R79). -/
def ttStep (e : Env) (st : TimeStep) (d : Dev) : Dev :=
  let new := st.new.sec
  if st.dateChanged then
    let d1 := loadDate st.new.day new d
    let d2 := missWhere (fun x => isPending x && decide (x.time < new)) d1
    entriesDue (some st.new) new d2
  else
    match st.old with
    | none => d
    | some old =>
      if new ≤ old.sec then d
      else
        let inSpan (x : Entry) : Bool := isPending x && decide (old.sec < x.time) && decide (x.time ≤ new)
        let sounds (x : Entry) : Bool := decide (new - x.time ≤ e.settings.lateWindow)
        let d1 := missWhere (fun x => inSpan x && !sounds x) d
        let passes := ((todayEntries d1).filter inSpan).map fun x => Msg.ttPass x.slot (x.time != new) st.new
        raiseHighWater new (pushAll passes d1)

/-- TT's part of a second event (R75). -/
def ttSecond (e : Env) (ev : SecondEvent) (d : Dev) : Dev :=
  match ev.new with
  | none => d
  | some t =>
    let d1 := if ev.day then loadDate t.day 0 d else d
    let d2 := match ev.step with
      | some st => ttStep e st d1
      | none => d1
    push (.ttDue t.sec) (raiseHighWater t.sec d2)

/-! ## Backup, RESTORE, RESTART (R81 to R83) -/

/-- Every SENT mark becomes MISSED (R81, R83). -/
def settleSent (d : Dev) : Dev := missWhere isSent d

/-- TT's marking at entry to backup and at RESTART, before the outcomes of the ended runs or after them: a free
value (R81, R83; log entry 11). What is left to do comes with the message that follows the outcomes. -/
def ttCutOff (d : Dev) : Dev :=
  if (todayEntries d).any isSent then
    let d1 := { d with drawn := d.drawn + 1 }
    if Config.outcomeFirst d.drawn then d1 else settleSent d1
  else d

/-- What the RESTORE event carries (R14). -/
structure RestoreEvent where
  start : Option Stamp
  now : Option Stamp
  shift : Option (Stamp × Stamp)
  dateChanged : Bool

/-- A time of day lies in the passed stretch (R82): from the start, inclusive after a change of date and exclusive
otherwise, to the restore second; in two parts where a backward shift was applied on the restore date. -/
def inPassed (ev : RestoreEvent) (now : Stamp) (time : Nat) : Bool :=
  let afterStart : Bool :=
    if ev.dateChanged then true
    else match ev.start with
      | some s => decide (s.sec < time)
      | none => false
  match ev.shift with
  | some (old, new) =>
    if new.day = now.day ∧ new.sec < old.sec then
      (afterStart && decide (time ≤ old.sec)) || (decide (new.sec < time) && decide (time ≤ now.sec))
    else afterStart && decide (time ≤ now.sec)
  | none => afterStart && decide (time ≤ now.sec)

/-- RESTORE (R82). -/
def ttRestore (ev : RestoreEvent) (d : Dev) : Dev :=
  match ev.now with
  | none => d
  | some t =>
    let d1 := if ev.dateChanged then loadDate t.day t.sec d else d
    raiseHighWater t.sec (missWhere (fun x => isPending x && inPassed ev t x.time) d1)

/-! ## Entries (R64 to R66) -/

/-- An entry joins a plan after every entry whose time is at or before its own (R65). -/
def insertEntry (x : Entry) : List Entry → List Entry
  | [] => [x]
  | y :: rest => if y.time ≤ x.time then y :: insertEntry x rest else x :: y :: rest

/-- The pool slots in use. -/
def usedSlots (d : Dev) : List Nat := d.tt.plans.toList.flatten.map fun x => x.slot

def freeSlots (d : Dev) : List Nat :=
  let used := usedSlots d
  (List.range Config.poolSlots).filter fun n => !used.contains n

/-- A free pool slot: which one is a free value (R65; log entry 10). -/
def pickFree (d : Dev) (free : List Nat) : Nat := free.getD (Config.pickSlot d.drawn % free.length) 0

/-- An accepted entry takes a free slot and joins its plan, with a mark if the plan is today's (R65, R73). -/
def addEntry (p : PlanNo) (time : Nat) (kind : EntryKind) (zones : ZoneSet) (free : List Nat) (d : Dev) :
    Entry × Dev :=
  let slot := pickFree d free
  let mark := freshMark d.tt.highWater time
  let x : Entry :=
    { slot := slot, time := time, kind := kind, zones := zones,
      day := if isToday d p then some (plainMark mark) else none }
  let d1 := setPlan p (insertEntry x d.tt.plans[p]) { d with drawn := d.drawn + 1 }
  (x, if isToday d p && mark == .missed then latch .ringMissed d1 else d1)

end Sys2Proof.Machine
end

