-- ==== Sys2Proof/Machine/Agenda.lean ====
section
/-! DEFINITION. What a block does with each message it is handed, and the delivery of messages: one at a time, each
with all it brings about before the next that was waiting (log entry 7); the second event (R5) with the order of the
blocks (log entry 8). -/

namespace Sys2Proof.Machine

/-- A command's outcome reaches its owner (R34). -/
def takeOutcome (e : Env) (b : Building) (c : Command) (o : CmdOutcome) (d : Dev) : Dev :=
  match c.owner with
  | .lc i => takeLcOutcome e b i c o d
  | .ta => takeTaOutcome b c o d
  | .dc => lampOutcome .dc b c o d
  | .ah => takeAhOutcome b c o d

/-- PREEMPTED reaches a claimant (R114, R129, R145). It does not arise for the drill (R153). -/
def takePreempted (e : Env) (c : Claimant) (b : Building) (d : Dev) : Dev :=
  match c with
  | .ring r => runNotice e r b .preempted d
  | .announce id => amNotice e id b true d
  | .page k => pageNotice k b d
  | .drill => d

/-- The PREEMPTED notices of one claim: what they bring about comes after the last of them (R90). -/
def takeAllPreempted (e : Env) : List (Claimant × Building) → Dev → Dev
  | [], d => d
  | (c, b) :: rest, d => takeAllPreempted e rest (takePreempted e c b d)

/-- FAILED reaches a claimant, whose released sets forget the building first (R107, R122, R144). -/
def takeLost (e : Env) (c : Claimant) (b : Building) (d : Dev) : Dev :=
  match c with
  | .ring r => runNotice e r b .failed (runsForget b d)
  | .announce id => amNotice e id b false (amForget (bsOne b) d)
  | .page k => pageNotice k b (pageForget k b d)
  | .drill => drillNotice b d

/-- STARTED reaches a claimant (R113, R128, R140, R153). -/
def takeStarted (e : Env) (c : Claimant) (members : BuildingSet) (d : Dev) : Dev :=
  match c with
  | .ring r => runStarted e r members d
  | .announce id => amStarted e id members d
  | .page k => pageStarted e k members d
  | .drill => drillStarted e members d

/-- A trunk-free event reaches one of its receivers (section 5.3). -/
def takeTrunkFree (e : Env) (t : FreeTaker) (b : Building) (d : Dev) : Dev :=
  match t with
  | .dc => dcTrunkFree b d
  | .rs => rsTrunkFree e b d
  | .am => amTrunkFree e b d
  | .pu => puTrunkFree b d

/-- One block's part of a second event (R5). -/
def takeSecond (e : Env) (part : SecondPart) (ev : SecondEvent) (d : Dev) : Dev :=
  match part with
  | .quiet =>
    match ev.new with
    | some t => endQuiets t d
    | none => d
  | .tt => ttSecond e ev d
  | .lc => lcSecond ev d
  | .ta => taSecond d
  | .dc => dcSecond e ev d
  | .rs born => rsSecond e born d
  | .am born => amSecond e ev born d
  | .pu => puSecond e d
  | .ah => lampSecond .ah d

/-- A block takes a message. -/
def deliver (e : Env) (m : Msg) (d : Dev) : Dev :=
  match m with
  | .busStart b => startBus e b d
  | .cmdOutcome b c o => takeOutcome e b c o d
  | .driverOnline b a p => driverReports e b a p d
  | .driverView b a v => driverGone e b a v d
  | .probeResult b a r p => probeFound e b a r p d
  | .switchReport b m => takeSwitchReport b m d
  | .switchLost b => switchGone b d
  | .panelReport toAlarm b age lamp reply => if toAlarm then ahPanel b age lamp reply d else dcPanel e b age lamp reply d
  | .applySent b => takeApplySent b d
  | .preempted l => takeAllPreempted e l d
  | .lost c b => takeLost e c b d
  | .started c s => takeStarted e c s d
  | .barrierCheck c => checkBarrier c d
  | .trunkFree t b => takeTrunkFree e t b d
  | .ringOutcome ref o => takeRingOutcome ref o d
  | .chimeEnd k => chimeOver k d
  | .chimeTaken k => chimeOver k d
  | .clipOutcome id _ => clipOver e id d
  | .scan => scanQueue e d
  | .second part ev => takeSecond e part ev d
  | .stepTT st => ttStep e st d
  | .stepLC _ => lcStep e d
  | .ttDue sec => entriesDue e.now sec d
  | .ttPass slot late pass => passEntry e slot late pass d
  | .ttSettle => settleSent d
  | .lineSecond i ev => lineSecond e i ev d
  | .runReclaim r order => runTurn e r order d
  | .pageReclaim k => reclaimPage k d

/-- Messages are delivered one at a time; those that a delivery brings about go before the rest. What `fuel` does
not reach stays on the agenda (log entry 7). -/
def drain (e : Env) : Nat → List Msg → Dev → Dev
  | 0, rest, d => { d with agenda := rest ++ d.agenda }
  | _, [], d => d
  | fuel + 1, m :: rest, d =>
    let d1 := deliver e m { d with agenda := [] }
    drain e fuel (d1.agenda ++ rest) { d1 with agenda := [] }

/-- Everything on the agenda is delivered. -/
def settle (e : Env) (d : Dev) : Dev := drain e Config.agendaFuel d.agenda { d with agenda := [] }

/-- The second event goes to the blocks (R5): quiets are compared first (R86), DC, RS, AM and PU come in that order
(section 5.3). -/
def pushSecond (ev : SecondEvent) (d : Dev) : Dev :=
  pushAll
    [.second .quiet ev, .second .tt ev, .second .lc ev, .second .ta ev, .second .dc ev,
      .second (.rs d.rs.nextOrder) ev, .second (.am d.am.nextOrder) ev, .second .pu ev,
      .second .ah ev] d

end Sys2Proof.Machine
end

