-- ==== Sys2Proof/Machine/Supply.lean ====
section
/-! DEFINITION. TB: the end of a second and the planned shift (R3, R5, R6, R12), setting the time (R7, R8), entry to
backup, RESTORE and the outage stamp (R13 to R15), COLD (R17) and RESTART (R18), each with what it brings to every
block. -/

namespace Sys2Proof.Machine

def setTb (x : Timebase) (s : State) : State := { s with tb := x }

def setLink (x : Link) (s : State) : State := { s with link := x }

/-- A change in the blocks, with everything it brings about. -/
def inBlocks (f : Env → Dev → Dev) (s : State) : State :=
  { s with dev := settle (envOf s) (f (envOf s) s.dev) }

def setDev (x : Dev) (s : State) : State := { s with dev := x }

/-! ## The end of a second -/

/-- The planned shift applies at the end of the second in progress: campus time is the slot's date and its stated
second less one (R12). -/
def shiftDue (tb : Timebase) : Option ShiftPlan :=
  match tb.time, tb.slot with
  | some t, some p => if t.day = p.day ∧ t.sec + 1 = p.stated then some p else none
  | _, _ => none

/-- The campus time to which a planned shift steps (R12). -/
def shiftedTime (p : ShiftPlan) : Stamp := { day := p.day, sec := ((p.stated : Int) + p.shift).toNat }

/-- Campus time after the second in progress (R6, R12). -/
def nextTime (tb : Timebase) : Option Stamp :=
  match shiftDue tb with
  | some p => some (shiftedTime p)
  | none => tb.time.map stampSucc

/-- The step that the boundary carries (R7, R12). -/
def shiftStep (tb : Timebase) : Option TimeStep :=
  (shiftDue tb).map fun p => { old := tb.time, new := shiftedTime p, cause := .shift, dateChanged := false }

/-- The second event of the boundary (R5). -/
def secondEventOf (tb : Timebase) : SecondEvent :=
  let new := nextTime tb
  { new := new
    minute := (shiftDue tb).isNone && new.any fun t => t.sec % 60 == 0
    day := (shiftDue tb).isNone && new.any fun t => t.sec == 0
    step := shiftStep tb }

/-- The time base after the second in progress has ended (R3, R6, R12). The step of a shift applied on backup waits
for RESTORE, and that of a RESTART for its end. -/
def tbAfterSecond (tb : Timebase) : Timebase :=
  let new := nextTime tb
  let shifted := (shiftDue tb).isSome
  { tb with
    time := new
    sub := 0
    secLen := secondLength new tb.trim
    slot := if shifted then none else tb.slot
    outageShift :=
      match tb.supply, shiftDue tb, tb.time with
      | .backup, some p, some old => some (old, shiftedTime p)
      | _, _, _ => tb.outageShift
    restart := tb.restart.map fun r => { r with spanned := true, shifted := r.shifted || shifted }
    clock := tb.clock + (tb.secLen - tb.sub) }

/-- The second in progress ends. While the device runs, the second event is delivered (R5) and an applied shift
latched (R12); with the retained state lost nothing counts (log entry 26). -/
def endSecond (s : State) : State :=
  if !s.tb.retained then s
  else
    let s1 := setTb (tbAfterSecond s.tb) s
    if isRunning s.tb then
      inBlocks (fun _ d =>
        pushSecond (secondEventOf s.tb) (if (shiftDue s.tb).isSome then latch .shiftApplied d else d)) s1
    else s1

/-! ## Setting the time (R7, R8) -/

/-- A time step with its date-changed flag (R7). -/
def stepOf (old : Option Stamp) (new : Stamp) (cause : StepCause) : TimeStep :=
  { old := old, new := new, cause := cause, dateChanged := (old.map fun t => t.day) != some new.day }

/-- The planned shift slot's moment is at or before a time (R8), as dates order them (across the calendar's wrap log
entry 51). -/
def planPassed (p : ShiftPlan) (t : Stamp) : Bool := stampLe { day := p.day, sec := p.stated } t

/-- TB loads a time (R8): sub-second count 0, a passed plan emptied, and the time step delivered to TT and LC. That TT takes
it, with all it brings about, before LC is the model's choice (log entry 8). -/
def loadTime (t : Stamp) (s : State) : State :=
  let step := stepOf s.tb.time t .set
  inBlocks (fun _ d => pushAll [.stepTT step, .stepLC step] d)
    (setTb
      { s.tb with
        time := some t, sub := 0, secLen := secondLength (some t) s.tb.trim,
        slot := s.tb.slot.filter fun p => !planPassed p t } s)

/-! ## The outage stamp (R15) -/

/-- The stamp at entry to backup. -/
def stampAtLoss (mode : StampMode) (tb : Timebase) : Timebase :=
  let count := if tb.stampCount < 255 then tb.stampCount + 1 else tb.stampCount
  match mode with
  | .last => { tb with stampCount := count, stampStart := tb.time, stampEnd := none }
  | .first =>
    if tb.stampStart.isNone && tb.stampEnd.isNone && tb.time.isSome then
      { tb with stampCount := count, stampStart := tb.time }
    else { tb with stampCount := count }

/-- The stamp at RESTORE. -/
def stampAtRestore (mode : StampMode) (tb : Timebase) : Timebase :=
  match mode with
  | .last => { tb with stampEnd := tb.time }
  | .first => if tb.stampStart.isSome && tb.stampEnd.isNone then { tb with stampEnd := tb.time } else tb

/-! ## RESTART (R18) -/

def eachBus (f : Building → Dev → Dev) : List Building → Dev → Dev
  | [], d => d
  | b :: rest, d => eachBus f rest (f b d)

/-- RESTART begins in the blocks, in the order of log entry 8. The marking of TT and the outcomes of the ended runs
meet in the order of a free value (R83). -/
def devRestart (e : Env) (d : Dev) : Dev :=
  let d1 := eachBus (busRestart e) buildings d
  let d2 := rsRestart e (taRestart (ttCutOff (lcRestart d1)))
  ahRestart (dcCutOff e .aborted (puStart (amRestart e d2)))

/-- RESTART ends in the blocks: held outcomes are returned, TT marks what is still SENT, the time step goes to TT
and LC, and every block takes its values (R41, R61, R83, R135, R146, R162, R172). -/
def devRestartEnds (e : Env) (step : Option TimeStep) (shifted : Bool) (d : Dev) : Dev :=
  let d1 := push .ttSettle (rsRestartEnds (eachBus busRestartEnds buildings d))
  let d2 := match step with
    | some st => pushAll [.stepTT st, .stepLC st] d1
    | none => d1
  let d3 := dcLampsAfter (puStart (amRestartEnds e (lcRestartEnds e d2)))
  ahRestartEnds e (if shifted then latch .shiftApplied d3 else d3)

/-- LP at RESTART (R176): a frame in reception and the held requests are given up, and LINK OVERRUN is latched if a
request was. -/
def linkRestart (s : State) : State :=
  let lost := s.link.inReply.isSome || s.link.waiting.isSome
  setDev (if lost then latch .linkOverrun s.dev else s.dev)
    (setLink { s.link with rx := none, inReply := none, waiting := none } s)

/-- RESTART begins (R18). -/
def beginRestart (s : State) : State :=
  inBlocks devRestart
    (linkRestart
      (setTb { s.tb with restart := some { began := s.tb.time, spanned := false, shifted := false } } s))

/-- The time step that the end of a RESTART delivers: if a second ended in it and time is VALID (R18). -/
def restartStep (tb : Timebase) (r : RestartRun) : Option TimeStep :=
  match r.spanned, tb.time with
  | true, some t => some (stepOf r.began t .restart)
  | _, _ => none

/-- RESTART ends (R18). -/
def endRestart (s : State) : State :=
  match s.tb.restart with
  | none => s
  | some r =>
    inBlocks (fun e d => devRestartEnds e (restartStep s.tb r) r.shifted d) (setTb { s.tb with restart := none } s)

/-! ## Backup and RESTORE (R13, R14) -/

/-- Entry to backup in the blocks. -/
def devBackup (taken : BuildingSet) (e : Env) (d : Dev) : Dev :=
  let d1 := eachBus (busBackup taken) buildings d
  let d2 := rsBackup e (taBackup (ttCutOff (lcBackup d1)))
  ahBackup (dcCutOff e .abortedPower (puBackup (amBackup e (push .ttSettle d2))))

/-- An attempt that a RESTART was carrying is abandoned, its station having taken the command or not (R13, R40). -/
def abandonCarried (taken : BuildingSet) (b : Building) (d : Dev) : Dev :=
  busAbandon b (if bsHas taken b then setBus b (fieldCutOff d.bus[b]) d else d)

/-- VMAIN falls in a RESTART: the RESTART ends at that moment, but for the carried attempts (R13). -/
def cutRestart (taken : BuildingSet) (s : State) : State :=
  if s.tb.restart.isSome then endRestart (setDev (eachBus (abandonCarried taken) buildings s.dev) s) else s

/-- With both supplies absent the retained state stops being valid (R17). -/
def checkRetained (tb : Timebase) : Timebase :=
  if tb.vmain || tb.vbak then tb else { tb with retained := false }

/-- TB at entry to backup (R13). A backup supply that is absent then leaves no retained state (R17). -/
def tbBackup (mode : StampMode) (tb : Timebase) : Timebase :=
  checkRetained { stampAtLoss mode tb with
    outageStart := tb.time, outageShift := none, supply := .backup, vmain := false, qualifying := none }

/-- Entry to backup (R13); the link loses what it holds (R176). An attempt that starts as a RESTART ends at this very
moment has not been taken by its station. -/
def enterBackup (taken : BuildingSet) (s : State) : State :=
  let s1 := cutRestart taken s
  inBlocks (devBackup (if s.tb.restart.isSome then 0 else taken))
    (setLink { s1.link with rx := none, inReply := none, waiting := none }
      (setTb (tbBackup s1.link.settings.stampMode s1.tb) s1))

/-- The RESTORE event (R14). -/
def restoreEventOf (tb : Timebase) : RestoreEvent :=
  { start := tb.outageStart, now := tb.time, shift := tb.outageShift,
    dateChanged := (tb.outageStart.map fun t => t.day) != (tb.time.map fun t => t.day) }

/-- Each bus at RESTORE, with the LAMP ON it places in alarm mode (R40). -/
def restoreBuses (e : Env) : List Building → Dev → List (Building × Option Nat) × Dev
  | [], d => ([], d)
  | b :: rest, d =>
    let (n, d1) := busRestore e b d
    let (ns, d2) := restoreBuses e rest d1
    ((b, n) :: ns, d2)

/-- RESTORE in the blocks, the buses powered up with their stations (R24, R25); POWER RESTORED is latched (R178), and
SHIFT APPLIED if a shift was applied (R14). -/
def devRestore (ev : RestoreEvent) (e : Env) (d : Dev) : Dev :=
  let (placed, d1) := restoreBuses e buildings (powerUp d)
  let d2 := taRestore ev.now (ttRestore ev (lcRestore e d1))
  let d3 := ahRestore e placed (dcRestore e ev.now (puStart (amRestore e d2)))
  latch .powerRestored (if ev.shift.isSome then latch .shiftApplied d3 else d3)

/-- TB at RESTORE (R14). -/
def tbRestore (mode : StampMode) (tb : Timebase) : Timebase :=
  { stampAtRestore mode tb with supply := .main, qualifying := none, outageShift := none }

/-- RESTORE (R14). A RESETN that is asserted is taken as a RESTART once it has been delivered. -/
def leaveBackup (s : State) : State :=
  let s1 :=
    inBlocks (devRestore (restoreEventOf s.tb))
      (setLink { s.link with rx := none } (setTb (tbRestore s.link.settings.stampMode s.tb) s))
  if s1.tb.resetn then beginRestart s1 else s1

/-! ## COLD (R17) -/

/-- The blocks at a COLD start. The levels of the inputs are not the device's and stay; the inputs are read afresh
(R138, R163). Nor are the field stations, which the buses power up (R24, R25; log entry 26). -/
def coldDev (clock : Nat) (d : Dev) : Dev :=
  let coldPage (p : Page) : Page := { Page.cold with level := p.level, seen := p.level }
  { Dev.cold with
    bus := Vector.ofFn fun b : Building => powerUpBus { Bus.cold with field := (d.bus[b]).field }
    am := { Announcer.cold with cplay := d.am.cplay }
    pu := { a := coldPage d.pu.a, b := coldPage d.pu.b, nextWait := 0 }
    ah := { AlarmHold.cold with level := d.ah.level, timing := if d.ah.level then some clock else none }
    serial := d.serial
    drawn := d.drawn }

/-- A COLD start (R17); a RESETN that is asserted then is taken as a RESTART. -/
def coldStarts (s : State) : State :=
  let s1 : State :=
    { tb := { Timebase.cold with clock := s.tb.clock, resetn := s.tb.resetn }
      link := Link.cold
      dev := coldDev s.tb.clock s.dev
      pending := s.pending }
  if s1.tb.resetn then beginRestart s1 else s1

end Sys2Proof.Machine
end

