-- ==== Sys2Proof/Machine/Operands.lean ====
section
/-! DEFINITION. The record formats (R182): how the fields of requests and replies are sent, and the body of each
request, written and read. Log entry 9 says what the layouts leave to be deduced. -/

namespace Sys2Proof.Machine

/-! ## Writing fields -/

def byteOf (n : Nat) : Byte := BitVec.ofNat 8 n

/-- A number in two bytes, most significant first. -/
def num (n : Nat) : List Byte := [byteOf (n / 256), byteOf n]

/-- A number of a reply, in two bytes; what is sent for one that does not fit is a free value. -/
def num2 (n : Nat) : List Byte := if n < 65536 then num n else num (Config.wideNumber n)

/-- A number in one byte, likewise. -/
def num1 (n : Nat) : List Byte := [byteOf (if n < 256 then n else Config.wideNumber n)]

/-- A named value: its place in the rule's list. -/
def code (n : Nat) : List Byte := [byteOf n]

/-- A signed number in two's complement. -/
def signed (z : Int) : List Byte := num (z % 65536).toNat

/-- A time of day, three bytes. -/
def timeOfDay (n : Nat) : List Byte := [byteOf (n / 65536), byteOf (n / 256), byteOf n]

/-- A time stamp, five bytes. -/
def stamp (t : Stamp) : List Byte := num t.day ++ timeOfDay t.sec

/-- A time stamp that may be absent: day 65535, second 0. -/
def stampOrAbsent : Option Stamp → List Byte
  | some t => stamp t
  | none => stamp { day := 65535, sec := 0 }

/-- A zone set: byte b for building b. -/
def zoneBytes (z : ZoneSet) : List Byte := buildings.map fun b => zoneMap z b

/-- A condition set, most significant byte first. -/
def condBytes (c : CondSet) : List Byte := [c.extractLsb' 8 8, c.extractLsb' 0 8]

/-- An optional field: 1 and the field, or 0. -/
def optional {α : Type} (f : α → List Byte) : Option α → List Byte
  | some x => 1#8 :: f x
  | none => [0#8]

/-- Yes 0, no 1: their places where the tables list them. -/
def yesNo (v : Bool) : List Byte := code (if v then 0 else 1)

/-! ## Reading fields: each reader answers the field and the rest of the body -/

def readByte : List Byte → Option (Byte × List Byte)
  | x :: rest => some (x, rest)
  | [] => none

def readCode (l : List Byte) : Option (Nat × List Byte) :=
  match l with
  | x :: rest => some (x.toNat, rest)
  | [] => none

def readNum (l : List Byte) : Option (Nat × List Byte) :=
  match l with
  | x :: y :: rest => some (x.toNat * 256 + y.toNat, rest)
  | _ => none

def readSigned (l : List Byte) : Option (Int × List Byte) :=
  match readNum l with
  | some (n, rest) => some (if n < 32768 then (n : Int) else (n : Int) - 65536, rest)
  | none => none

def readTod (l : List Byte) : Option (Nat × List Byte) :=
  match l with
  | x :: y :: z :: rest => some (x.toNat * 65536 + y.toNat * 256 + z.toNat, rest)
  | _ => none

def readStamp (l : List Byte) : Option (Stamp × List Byte) :=
  match readNum l with
  | some (day, l1) =>
    match readTod l1 with
    | some (sec, l2) => some ({ day := day, sec := sec }, l2)
    | none => none
  | none => none

def readZones (l : List Byte) : Option (ZoneSet × List Byte) :=
  match l with
  | a :: b :: c :: d :: e :: f :: g :: h :: rest => some (h ++ g ++ f ++ e ++ d ++ c ++ b ++ a, rest)
  | _ => none

def readConds (l : List Byte) : Option (CondSet × List Byte) :=
  match l with
  | x :: y :: rest => some (x ++ y, rest)
  | _ => none

/-- An optional field; a first byte other than 0 and 1 is no layout of any field. -/
def readOptional {α : Type} (f : List Byte → Option (α × List Byte)) (l : List Byte) :
    Option (Option α × List Byte) :=
  match l with
  | x :: rest =>
    if x = 0#8 then some (none, rest)
    else if x = 1#8 then
      match f rest with
      | some (v, rest1) => some (some v, rest1)
      | none => none
    else none
  | [] => none

/-- A list of `n` members in turn. -/
def readMany {α : Type} (f : List Byte → Option (α × List Byte)) :
    (n : Nat) → List Byte → Option (Vector α n × List Byte)
  | 0, l => some (#v[], l)
  | n + 1, l =>
    match readMany f n l with
    | some (v, l1) =>
      match f l1 with
      | some (x, l2) => some (v.push x, l2)
      | none => none
    | none => none

/-- One step place of PATTERN SET. A code other than TONE, GAP and END gives no layout, so the body has a length its kind
does not allow, after an END too (log entry 9). -/
def readPlace (l : List Byte) : Option (StepPlace × List Byte) :=
  match readCode l with
  | some (0, l1) =>
    match readNum l1 with
    | some (t, l2) =>
      match readNum l2 with
      | some (n, l3) => some (.tone t n, l3)
      | none => none
    | none => none
  | some (1, l1) =>
    match readNum l1 with
    | some (n, l2) => some (.gap n, l2)
    | none => none
  | some (2, l1) => some (.finish, l1)
  | _ => none

def readKind (l : List Byte) : Option (EntryArg × List Byte) :=
  match readCode l with
  | some (0, l1) =>
    match readNum l1 with
    | some (n, l2) => some (.ring n, l2)
    | none => none
  | some (1, l1) =>
    match readNum l1 with
    | some (n, l2) =>
      match readCode l2 with
      | some (p, l3) => some (.clip n p, l3)
      | none => none
    | none => none
  | some (k, l1) => some (.other k, l1)
  | none => none

/-! ## The kinds (section 11.6) -/

/-- The kind byte of a request. -/
def kindOf : Request → Nat
  | .timeSet _ _ => 16
  | .timeGet => 17
  | .trimSet _ => 18
  | .shiftPlan _ _ _ => 19
  | .shiftCancel => 20
  | .stampGet => 21
  | .stampClear => 22
  | .stationConfig _ _ _ => 32
  | .stationStatus _ => 33
  | .lineConfig _ _ _ _ _ _ _ => 48
  | .dialSet _ _ _ => 49
  | .lineEnable _ => 50
  | .lineDisable _ => 51
  | .lineProbe _ => 52
  | .lineStatus _ => 53
  | .planClear _ => 64
  | .entryAdd _ _ _ _ => 65
  | .entryRemove _ _ => 66
  | .entryList _ _ => 67
  | .weekSet _ => 68
  | .exceptionAdd _ _ _ => 69
  | .exceptionRemove _ => 70
  | .exceptionList _ => 71
  | .dayQuery _ => 72
  | .zoneSet _ _ => 80
  | .quietSet _ _ => 81
  | .quietClear _ => 82
  | .trunkStatus _ => 83
  | .patternSet _ _ => 96
  | .patternGet _ => 97
  | .ringNow _ _ => 98
  | .runStop _ => 99
  | .runList _ => 100
  | .clipDefine _ _ => 112
  | .announce _ _ _ _ _ => 113
  | .announceCancel _ => 114
  | .queueList _ => 115
  | .finishedList => 116
  | .pageSet _ _ _ _ _ => 128
  | .pageClose _ => 129
  | .scriptSet _ _ _ _ _ _ _ => 144
  | .drillStart _ _ => 145
  | .drillSchedule _ _ _ => 146
  | .drillCancel => 147
  | .drillRecordGet _ => 148
  | .alarmResume => 160
  | .status => 176
  | .conditionsClear _ => 177
  | .attentionSet _ => 178
  | .settingsSet _ => 179
  | .settingsGet => 180
  | .restart => 181

/-! ## Request bodies, written -/

def placeBytes : StepPlace → List Byte
  | .tone t n => code 0 ++ num t ++ num n
  | .gap n => code 1 ++ num n
  | .finish => code 2

def kindBytes : EntryArg → List Byte
  | .ring n => code 0 ++ num n
  | .clip n p => code 1 ++ num n ++ code p
  | .other k => code k

/-- The body of a request frame (R182). -/
def encodeBody : Request → List Byte
  | .timeSet day sec => num day ++ timeOfDay sec
  | .timeGet => []
  | .trimSet t => signed t
  | .shiftPlan day stated shift => num day ++ timeOfDay stated ++ signed shift
  | .shiftCancel => []
  | .stampGet => []
  | .stampClear => []
  | .stationConfig b a k => num b ++ num a ++ code k
  | .stationStatus b => num b
  | .lineConfig l b a span hold catchUp width =>
    num l ++ num b ++ num a ++ optional num span ++ optional num hold ++ optional num catchUp ++ optional num width
  | .dialSet l hh mm => num l ++ num hh ++ num mm
  | .lineEnable l => num l
  | .lineDisable l => num l
  | .lineProbe l => num l
  | .lineStatus l => num l
  | .planClear p => num p
  | .entryAdd p time kind zones => num p ++ timeOfDay time ++ kindBytes kind ++ zoneBytes zones
  | .entryRemove p i => num p ++ num i
  | .entryList p i => num p ++ num i
  | .weekSet plans => plans.toList.flatMap num
  | .exceptionAdd first last plan => num first ++ num last ++ num plan
  | .exceptionRemove day => num day
  | .exceptionList start => num start
  | .dayQuery day => num day
  | .zoneSet zones value => zoneBytes zones ++ code value
  | .quietSet zones t => zoneBytes zones ++ stamp t
  | .quietClear zones => zoneBytes zones
  | .trunkStatus b => num b
  | .patternSet p places => num p ++ places.toList.flatMap placeBytes
  | .patternGet p => num p
  | .ringNow p zones => num p ++ zoneBytes zones
  | .runStop r => num r
  | .runList r => num r
  | .clipDefine c n => num c ++ num n
  | .announce c zones prio notBefore expiry =>
    num c ++ zoneBytes zones ++ code prio ++ optional stamp notBefore ++ optional num expiry
  | .announceCancel id => num id
  | .queueList start => num start
  | .finishedList => []
  | .pageSet slot zones prio chime trigger => code slot ++ zoneBytes zones ++ code prio ++ num chime ++ code trigger
  | .pageClose slot => code slot
  | .scriptSet s pre delay pattern evac limit clear =>
    num s ++ num pre ++ num delay ++ num pattern ++ num evac ++ num limit ++ num clear
  | .drillStart s set => num s ++ [set]
  | .drillSchedule s set t => num s ++ [set] ++ stamp t
  | .drillCancel => []
  | .drillRecordGet n => num n
  | .alarmResume => []
  | .status => []
  | .conditionsClear c => condBytes c
  | .attentionSet c => condBytes c
  | .settingsSet x =>
    num x.lateWindow ++ num x.bellWindow ++ num x.announceExpiry ++ num x.pageTalk ++ num x.pageWait ++
      x.retry.toList.flatMap num ++ x.bypass.toList.flatMap code ++ code x.stampMode
  | .settingsGet => []
  | .restart => []

/-! ## Request bodies, read -/

/-- A body read by a kind's reader; it must be read to its end (R175). -/
def whole (r : Option (Request × List Byte)) : Content :=
  match r with
  | some (q, []) => .request q
  | _ => .badLength

def bodyNum (f : Nat → Request) (l : List Byte) : Option (Request × List Byte) := do
  let (a, l) ← readNum l
  return (f a, l)

def bodyNum2 (f : Nat → Nat → Request) (l : List Byte) : Option (Request × List Byte) := do
  let (a, l) ← readNum l
  let (b, l) ← readNum l
  return (f a b, l)

def bodyNum3 (f : Nat → Nat → Nat → Request) (l : List Byte) : Option (Request × List Byte) := do
  let (a, l) ← readNum l
  let (b, l) ← readNum l
  let (c, l) ← readNum l
  return (f a b c, l)

def bodyNone (q : Request) (l : List Byte) : Option (Request × List Byte) := some (q, l)

def bodyConds (f : CondSet → Request) (l : List Byte) : Option (Request × List Byte) := do
  let (c, l) ← readConds l
  return (f c, l)

def bodyTimeSet (l : List Byte) : Option (Request × List Byte) := do
  let (day, l) ← readNum l
  let (sec, l) ← readTod l
  return (.timeSet day sec, l)

def bodyTrimSet (l : List Byte) : Option (Request × List Byte) := do
  let (t, l) ← readSigned l
  return (.trimSet t, l)

def bodyShiftPlan (l : List Byte) : Option (Request × List Byte) := do
  let (day, l) ← readNum l
  let (stated, l) ← readTod l
  let (shift, l) ← readSigned l
  return (.shiftPlan day stated shift, l)

def bodyStationConfig (l : List Byte) : Option (Request × List Byte) := do
  let (b, l) ← readNum l
  let (a, l) ← readNum l
  let (k, l) ← readCode l
  return (.stationConfig b a k, l)

def bodyLineConfig (l : List Byte) : Option (Request × List Byte) := do
  let (i, l) ← readNum l
  let (b, l) ← readNum l
  let (a, l) ← readNum l
  let (span, l) ← readOptional readNum l
  let (hold, l) ← readOptional readNum l
  let (catchUp, l) ← readOptional readNum l
  let (width, l) ← readOptional readNum l
  return (.lineConfig i b a span hold catchUp width, l)

def bodyEntryAdd (l : List Byte) : Option (Request × List Byte) := do
  let (p, l) ← readNum l
  let (time, l) ← readTod l
  let (kind, l) ← readKind l
  let (zones, l) ← readZones l
  return (.entryAdd p time kind zones, l)

def bodyWeekSet (l : List Byte) : Option (Request × List Byte) := do
  let (plans, l) ← readMany readNum 7 l
  return (.weekSet plans, l)

def bodyZoneSet (l : List Byte) : Option (Request × List Byte) := do
  let (zones, l) ← readZones l
  let (v, l) ← readCode l
  return (.zoneSet zones v, l)

def bodyQuietSet (l : List Byte) : Option (Request × List Byte) := do
  let (zones, l) ← readZones l
  let (t, l) ← readStamp l
  return (.quietSet zones t, l)

def bodyQuietClear (l : List Byte) : Option (Request × List Byte) := do
  let (zones, l) ← readZones l
  return (.quietClear zones, l)

def bodyPatternSet (l : List Byte) : Option (Request × List Byte) := do
  let (p, l) ← readNum l
  let (places, l) ← readMany readPlace 8 l
  return (.patternSet p places, l)

def bodyRingNow (l : List Byte) : Option (Request × List Byte) := do
  let (p, l) ← readNum l
  let (zones, l) ← readZones l
  return (.ringNow p zones, l)

def bodyAnnounce (l : List Byte) : Option (Request × List Byte) := do
  let (c, l) ← readNum l
  let (zones, l) ← readZones l
  let (prio, l) ← readCode l
  let (notBefore, l) ← readOptional readStamp l
  let (expiry, l) ← readOptional readNum l
  return (.announce c zones prio notBefore expiry, l)

def bodyPageSet (l : List Byte) : Option (Request × List Byte) := do
  let (slot, l) ← readCode l
  let (zones, l) ← readZones l
  let (prio, l) ← readCode l
  let (chime, l) ← readNum l
  let (trigger, l) ← readCode l
  return (.pageSet slot zones prio chime trigger, l)

def bodyPageClose (l : List Byte) : Option (Request × List Byte) := do
  let (slot, l) ← readCode l
  return (.pageClose slot, l)

def bodyScriptSet (l : List Byte) : Option (Request × List Byte) := do
  let (s, l) ← readNum l
  let (pre, l) ← readNum l
  let (delay, l) ← readNum l
  let (pattern, l) ← readNum l
  let (evac, l) ← readNum l
  let (limit, l) ← readNum l
  let (clear, l) ← readNum l
  return (.scriptSet s pre delay pattern evac limit clear, l)

def bodyDrillStart (l : List Byte) : Option (Request × List Byte) := do
  let (s, l) ← readNum l
  let (set, l) ← readByte l
  return (.drillStart s set, l)

def bodyDrillSchedule (l : List Byte) : Option (Request × List Byte) := do
  let (s, l) ← readNum l
  let (set, l) ← readByte l
  let (t, l) ← readStamp l
  return (.drillSchedule s set t, l)

def bodySettingsSet (l : List Byte) : Option (Request × List Byte) := do
  let (w, l) ← readNum l
  let (bell, l) ← readNum l
  let (expiry, l) ← readNum l
  let (talk, l) ← readNum l
  let (wait, l) ← readNum l
  let (retry, l) ← readMany readNum 8 l
  let (bypass, l) ← readMany readCode 8 l
  let (mode, l) ← readCode l
  return (.settingsSet
    { lateWindow := w, bellWindow := bell, announceExpiry := expiry, pageTalk := talk, pageWait := wait,
      retry := retry, bypass := bypass, stampMode := mode }, l)

/-- What a frame of a kind carries (R175, section 11.6). -/
def decodeBody (kind : Nat) (l : List Byte) : Content :=
  match kind with
  | 16 => whole (bodyTimeSet l)
  | 17 => whole (bodyNone .timeGet l)
  | 18 => whole (bodyTrimSet l)
  | 19 => whole (bodyShiftPlan l)
  | 20 => whole (bodyNone .shiftCancel l)
  | 21 => whole (bodyNone .stampGet l)
  | 22 => whole (bodyNone .stampClear l)
  | 32 => whole (bodyStationConfig l)
  | 33 => whole (bodyNum .stationStatus l)
  | 48 => whole (bodyLineConfig l)
  | 49 => whole (bodyNum3 .dialSet l)
  | 50 => whole (bodyNum .lineEnable l)
  | 51 => whole (bodyNum .lineDisable l)
  | 52 => whole (bodyNum .lineProbe l)
  | 53 => whole (bodyNum .lineStatus l)
  | 64 => whole (bodyNum .planClear l)
  | 65 => whole (bodyEntryAdd l)
  | 66 => whole (bodyNum2 .entryRemove l)
  | 67 => whole (bodyNum2 .entryList l)
  | 68 => whole (bodyWeekSet l)
  | 69 => whole (bodyNum3 .exceptionAdd l)
  | 70 => whole (bodyNum .exceptionRemove l)
  | 71 => whole (bodyNum .exceptionList l)
  | 72 => whole (bodyNum .dayQuery l)
  | 80 => whole (bodyZoneSet l)
  | 81 => whole (bodyQuietSet l)
  | 82 => whole (bodyQuietClear l)
  | 83 => whole (bodyNum .trunkStatus l)
  | 96 => whole (bodyPatternSet l)
  | 97 => whole (bodyNum .patternGet l)
  | 98 => whole (bodyRingNow l)
  | 99 => whole (bodyNum .runStop l)
  | 100 => whole (bodyNum .runList l)
  | 112 => whole (bodyNum2 .clipDefine l)
  | 113 => whole (bodyAnnounce l)
  | 114 => whole (bodyNum .announceCancel l)
  | 115 => whole (bodyNum .queueList l)
  | 116 => whole (bodyNone .finishedList l)
  | 128 => whole (bodyPageSet l)
  | 129 => whole (bodyPageClose l)
  | 144 => whole (bodyScriptSet l)
  | 145 => whole (bodyDrillStart l)
  | 146 => whole (bodyDrillSchedule l)
  | 147 => whole (bodyNone .drillCancel l)
  | 148 => whole (bodyNum .drillRecordGet l)
  | 160 => whole (bodyNone .alarmResume l)
  | 176 => whole (bodyNone .status l)
  | 177 => whole (bodyConds .conditionsClear l)
  | 178 => whole (bodyConds .attentionSet l)
  | 179 => whole (bodySettingsSet l)
  | 180 => whole (bodyNone .settingsGet l)
  | 181 => whole (bodyNone .restart l)
  | _ => .unknownKind

end Sys2Proof.Machine
end

