-- ==== Sys2Proof/Machine/Replies.lean ====
section
/-! DEFINITION. The data of the replies: each field that a rule names, in its order, in the formats of R182 (log entry
9), and the reply frame itself (R173, R175). -/

namespace Sys2Proof.Machine

/-! ## Named values, by their places in the rules' lists -/

def resultCode : Result → Nat
  | .ok => 0
  | .range => 1
  | .conflict => 2
  | .full => 3
  | .notFound => 4
  | .refused => 5
  | .busy => 6
  | .noTime => 7
  | .unknown => 8

def stationKindCode : StationKind → Nat
  | .zoneSwitch => 0
  | .lineDriver => 1
  | .marshalPanel => 2

def stationStateCode : StationState → Nat
  | .unknown => 0
  | .online => 1
  | .offline => 2

def opCode : BusOp → Nat
  | .stage _ => 0
  | .mute => 1
  | .impulse _ _ => 2
  | .probe => 3
  | .lamp _ => 4

def polarityCode : Polarity → Nat
  | .pos => 0
  | .neg => 1

def lineStateCode : LineState → Nat
  | .disabled => 0
  | .unset => 1
  | .offline => 2
  | .probe => 3
  | .fault => 4
  | .noTime => 5
  | .run => 6
  | .hold => 7
  | .advance => 8

def faultCode : FaultCause → Nat
  | .impulseShort => 0
  | .probeOpen => 1
  | .probeShort => 2

def viewCode : DriverView → Nat
  | .online => 0
  | .unknown => 1
  | .offline => 2
  | .absent => 3

def markCode : Mark → Nat
  | .pending => 0
  | .sent => 1
  | .rung => 2
  | .late => 3
  | .partly => 4
  | .missed => 5
  | .suppressed => 6
  | .queuedClip => 7

def urgencyCode : Urgency → Nat
  | .normal => 0
  | .urgent => 1

def runStateCode : Option Run → Nat
  | none => 0
  | some run => match run.state with
    | .claiming => 1
    | .genWait => 2
    | .staging => 3
    | .playing => 4
    | .done => 5

def dropCode : DropReason → Nat
  | .drill => 0
  | .alarm => 1
  | .failed => 2
  | .quiet => 3
  | .disabled => 4
  | .held => 5
  | .notStarted => 6
  | .preempted => 7
  | .stopped => 8
  | .generatorTaken => 9
  | .aborted => 10
  | .power => 11
  | .noGenerator => 12

def endingCode : RunEnding → Nat
  | .finished => 0
  | .nothingGranted => 1
  | .deadline => 2
  | .waitListFull => 3
  | .allLost => 4
  | .generatorTaken => 5
  | .stopped => 6
  | .aborted => 7
  | .abortedPower => 8

/-- A run's outcome, in the order of R76's table; R115 lists the four otherwise (log entry 9). -/
def ringOutcomeCode : RingOutcome → Nat
  | .rung => 0
  | .partly => 1
  | .missed => 2
  | .suppressed => 3

def playerCode : PlayerState → Nat
  | .idle => 0
  | .staging => 1
  | .starting => 2
  | .playing => 3
  | .stopping => 4

def reqPrioCode : ReqPrio → Nat
  | .normal => 0
  | .urgent => 1
  | .drill => 2

def reqOutcomeCode : ReqOutcome → Nat
  | .delivered => 0
  | .partly => 1
  | .failed => 2
  | .timeout => 3
  | .preempted => 4
  | .expired => 5
  | .suppressed => 6
  | .cancelled => 7
  | .displaced => 8
  | .alarm => 9
  | .power => 10
  | .aborted => 11

def drillPhaseCode : DrillPhase → Nat
  | .pre => 0
  | .evac => 1
  | .muster => 2
  | .allClear => 3

def trunkStateCode : TrunkState → Nat
  | .none => 0
  | .claiming => 1
  | .granted => 2
  | .sounding => 3
  | .excluded => 4
  | .released => 5

def recordOutcomeCode : RecordOutcome → Nat
  | .complete => 1
  | .timeout => 2
  | .aborted => 3
  | .abortedPower => 4
  | .alarmOverride => 5
  | .resumed => 6

def notStartedCode : NotStarted → Nat
  | .alarm => 0
  | .active => 1
  | .notFound => 2
  | .outage => 3

def pageStateCode : PageState → Nat
  | .idle => 0
  | .waiting => 1
  | .chime => 2
  | .opened => 3

def slotCode : PageSlot → Nat
  | .a => 0
  | .b => 1

def bypassCode : BypassMode → Nat
  | .bypass => 0
  | .inOrder => 1

def stampModeCode : StampMode → Nat
  | .first => 0
  | .last => 1

/-! ## TB (R9, R16) -/

def planBytes (p : ShiftPlan) : List Byte := num2 p.day ++ timeOfDay p.stated ++ signed p.shift

def timeGetData (tb : Timebase) : List Byte :=
  code (if tb.time.isSome then 0 else 1) ++ stampOrAbsent tb.time ++
    optional (fun t : Stamp => num2 (weekday t.day).1) tb.time ++ signed tb.trim ++ optional planBytes tb.slot

def stampGetData (mode : StampMode) (tb : Timebase) : List Byte :=
  num2 tb.stampCount ++ stampOrAbsent tb.stampStart ++ stampOrAbsent tb.stampEnd ++ code (stampModeCode mode)

/-! ## BC (R27) -/

def stationBytes (r : Station) : List Byte :=
  num2 r.addr ++ code (stationKindCode r.kind) ++ code (stationStateCode r.state) ++ num2 r.fails ++
    stampOrAbsent r.lastHeard

/-- The command and station of the transaction in flight: between two attempts it is still in flight (R31). -/
def flightOf (bus : Bus) : Option (Nat × Nat) :=
  let of (t : Transaction) : Nat × Nat :=
    match t.what with
    | .command c => (opCode c.op, t.addr)
    | .poll _ => (5, t.addr)
  match bus.wire with
  | .attempt t => some (of t)
  | .applyMark => some (6, 31)
  | .idle => bus.retries.head?.map of

def stationStatusData (bus : Bus) : List Byte :=
  bus.rows.flatMap stationBytes ++ code (if bus.alarm then 1 else 0) ++ num2 bus.queue.length ++
    optional (fun p : Nat × Nat => code p.1 ++ num2 p.2) (flightOf bus) ++ yesNo bus.applyPending

/-! ## LC (R63) -/

def probeResultBytes : ProbeResult → List Byte
  | .none => code 0
  | .ok n => code 1 ++ num2 n
  | .lineOpen => code 2
  | .short => code 3

def originCode : ProbeOrigin → Nat
  | .host => 0
  | .fault => 1

def stageCode : ProbeStage → Nat
  | .pending => 0
  | .sent => 1
  | .reading => 2

/-- T and G, where time is VALID and the line has a dial position (R46). -/
def targetGap (now : Option Stamp) (l : Line) : Option (Nat × Nat) :=
  match now, l.pos with
  | some t, some p => some (target l.span t.sec, gap l.span (target l.span t.sec) p)
  | _, _ => none

/-- A, in HOLD. -/
def leadShown (now : Option Stamp) (l : Line) : Option Nat :=
  match l.state, targetGap now l with
  | .hold, some p => some (lead l.span p.2)
  | _, _ => none

def lineBytes (now : Option Stamp) (l : Line) : List Byte :=
  num2 l.building.1 ++ num2 l.addr ++ num2 l.span ++ num2 l.hold ++ num2 l.catchUp ++ num2 l.width ++
    yesNo l.enabled ++ code (lineStateCode l.state) ++ optional num2 l.pos ++ optional num2 l.setPos ++
    optional (fun p => code (polarityCode p)) l.pol ++ num2 l.counter.toNat ++
    optional num2 ((targetGap now l).map fun p => p.1) ++ optional num2 ((targetGap now l).map fun p => p.2) ++
    optional num2 (leadShown now l) ++ optional (fun p => code (polarityCode p)) l.inFlight ++ num2 l.pace ++
    (match l.fault with
     | none => code 0
     | some c => code 1 ++ code (faultCode c)) ++
    optional (fun p : ProbeOrigin × ProbeStage => code (originCode p.1) ++ code (stageCode p.2)) l.probe ++
    probeResultBytes l.lastProbe ++ stampOrAbsent l.lastProbeAt ++ code (viewCode l.view) ++
    optional (fun p => code (polarityCode p)) l.latch

def lineStatusData (now : Option Stamp) (o : Option Line) : List Byte :=
  match o with
  | none => yesNo false
  | some l => yesNo true ++ lineBytes now l

/-! ## TT (R67, R70, R71) -/

/-- The flags byte of an ENTRY LIST entry (R182). A bit that the table gives no meaning for the entry at hand is sent as 0 (log
entry 9). -/
def entryFlags (x : Entry) : Nat :=
  let kind := match x.kind with
    | .ring _ => 0
    | .clip _ u => 128 + 64 * urgencyCode u
  let day := match x.day with
    | some m => 32 + (if m.late then 16 else 0) + markCode m.mark
    | none => 0
  kind + day

def entryNumber (x : Entry) : Nat :=
  match x.kind with
  | .ring n => n
  | .clip n _ => n

def entryBytes (x : Entry) : List Byte :=
  num2 x.slot ++ timeOfDay x.time ++ code (entryFlags x) ++ num1 (entryNumber x) ++ zoneBytes x.zones

def entryListData (d : Dev) (p : PlanNo) (start : Nat) : List Byte :=
  let entries := d.tt.plans[p]
  num1 entries.length ++ num2 (freeSlots d).length ++ num1 start ++
    ((entries.drop start).take 16).flatMap entryBytes

/-- A plan, SILENT or NONE as DAY QUERY gives it (R71). -/
def planNumber : PlanRef → Nat
  | .plan p => p.1
  | .silent => 65535
  | .none => 65534

/-- A value of the week map: a plan or NONE (R68). -/
def weekNumber : PlanRef → Nat
  | .plan p => p.1
  | _ => 65535

def exceptionBytes (r : ExceptionRow) : List Byte := num2 r.first ++ num2 r.last ++ num2 (weekNumber r.plan)

def exceptionListData (rows : List ExceptionRow) (start : Nat) : List Byte :=
  num2 rows.length ++ ((rows.drop start).take 20).flatMap exceptionBytes

def dayQueryData (d : Dev) (day : Nat) : List Byte :=
  num2 (weekday day).1 ++ num2 (planNumber (resolve d day)) ++
    (match coveringRow d day with
     | some r => code 0 ++ num2 r.first
     | none => code 1) ++
    d.tt.week.toList.flatMap (fun r => num2 (weekNumber r)) ++
    optional (fun r => num2 (planNumber r)) (if d.tt.today = some day then d.tt.todayPlan else none)

/-! ## TA (R101) -/

def claimPrioCode : ClaimPrio → Nat
  | .drill => 1
  | .urgent => 2
  | .ring => 3
  | .normal => 4

def claimantBytes : Claimant → List Byte
  | .ring r => code 1 ++ num2 (r.1 + 1)
  | .announce id => code 2 ++ num2 id
  | .page k => code (3 + slotCode k)
  | .drill => code 5

def holderBytes : Holder → List Byte
  | .none => code 0
  | .claimant c _ => claimantBytes c
  | .alarm => code 6

def holderPrio : Holder → Option Nat
  | .none => none
  | .claimant _ p => some (claimPrioCode p)
  | .alarm => some 0

def sourceCode : Source → Nat
  | .silent => 0
  | .tg g => 1 + g.1
  | .player => 5
  | .mic k => 6 + slotCode k

/-- The latest stage of a row (R101). R182 has a format for the zones of all buildings only: one building's map is sent as
one byte, bit z for its zone z, and the owner as its place in "the holder or RELEASE" (section 5.3), the model's readings
(log entry 9). -/
def stageBytes (st : Stage) : List Byte :=
  [st.map] ++ code (if st.owner.isSome then 0 else 1) ++
    code (match st.phase with
      | .placing => 0
      | .queued _ => 1
      | .confirmed => 2)

def settlingCode : Settling → Nat
  | .settled => 0
  | .awaiting => 1
  | .muting _ => 2

def zoneRecordBytes (z : Zone) : List Byte := yesNo z.enabled ++ stampOrAbsent z.quiet

/-- The source of the holder's open barrier. -/
def holderBarrier (d : Dev) (row : Row) : Option Source :=
  match row.holder with
  | .claimant c _ => (barrierOf d c).map fun x => x.source
  | _ => none

/-- TRUNK STATUS (R101). The open barrier is an optional field, the zone switch a yes or no, and each map of the building
(the holder's, the awaited, the applied) one byte, bit z for its zone z (log entry 9). -/
def trunkStatusData (d : Dev) (b : Building) : List Byte :=
  let row := d.ta.rows[b]
  (match switchOf d b with
   | some r => yesNo true ++ code (stationStateCode r.state)
   | none => yesNo false) ++
    holderBytes row.holder ++ optional code (holderPrio row.holder) ++ [row.map] ++ yesNo row.releasing ++
    code (sourceCode row.source) ++ optional stageBytes row.stage ++
    optional (fun w : Awaited => [w.map]) row.awaited ++ [row.applied] ++ code (settlingCode row.settling) ++
    optional (fun s => code (sourceCode s)) (holderBarrier d row) ++
    (List.finRange 8).flatMap fun z => zoneRecordBytes d.ta.zones[zoneIndex b z]

/-! ## RS (R103, R118) -/

def stepBytes : PStep → List Byte
  | .tone t n => code 0 ++ num2 t ++ num2 n
  | .gap n => code 1 ++ num2 n

def patternGetData (steps : List PStep) : List Byte := steps.flatMap stepBytes ++ num2 (playLength steps)

def refBytes (ref : EntryRef) : List Byte := num2 ref.plan.1 ++ num2 ref.slot ++ stamp ref.pass

def runBuildingBytes : RunBuilding → List Byte
  | .claiming => code 0
  | .waiting => code 1
  | .granted => code 2
  | .staged => code 3
  | .playing => code 4
  | .done => code 5
  | .dropped r => code 6 ++ code (dropCode r)

/-- Due time plus the run's window (R118). R118 does not say how the sum crosses the calendar's end; the model wraps it
as R6 wraps campus time (log entry 44). -/
def deadlineTime (run : Run) : Option Stamp :=
  run.due.map fun t => stampOfSeconds ((stampSeconds t + run.window) % Config.calendarSeconds)

def runBytes (o : Option Run) : List Byte :=
  code (runStateCode o) ++
    match o with
    | none => []
    | some run =>
      (match run.origin with
       | .entry ref => code 0 ++ refBytes ref
       | .ringNow => code 1) ++
        num2 run.pattern ++ zoneBytes run.zones ++ stampOrAbsent run.due ++ num2 run.count ++
        stampOrAbsent (deadlineTime run) ++
        (buildings.flatMap fun b => match stateAt run b with
          | some x => runBuildingBytes x
          | none => []) ++
        optional (fun g : GenNo => code g.1) run.gen ++
        (match run.ending, run.outcome with
         | some x, some o =>
           code (endingCode x) ++ code (ringOutcomeCode o) ++ stampOrAbsent run.endTime ++ [run.released]
         | _, _ => [])

/-- "The step it is on" (R118). The rule does not number the steps: the model counts from 0, and shows 0 while the
generator is ARMED (log entry 41). -/
def genStep (clock : Nat) (u : GenUse) : Nat :=
  match u.phase with
  | .armed => 0
  | _ => min (u.steps.length - 1) (stepsOver (clock - u.since) u.steps 0)

def genBytes (clock : Nat) : Option GenUse → List Byte
  | none => code 0
  | some u =>
    code 1 ++
      (match u.user with
       | .run r => code 0 ++ num2 (r.1 + 1)
       | .chime k => code 1 ++ code (slotCode k)
       | .drill => code 2) ++
      code (match u.phase with
        | .armed => 0
        | .sounding => 1
        | .ended => 2) ++
      num2 (genStep clock u)

/-- As many whole items as fit a number of bytes, in order (R118, R136). -/
def fitting (room : Nat) : List (List Byte) → List (List Byte)
  | [] => []
  | x :: rest => if x.length ≤ room then x :: fitting (room - x.length) rest else []

def runListData (clock : Nat) (d : Dev) (first : Nat) : List Byte :=
  let tail := d.rs.gens.toList.flatMap (genBytes clock) ++ (d.rs.waitList.flatMap fun r => num2 (r.1 + 1)) ++
    (d.rs.startOrder.flatMap fun r => num2 (r.1 + 1))
  let slots := fitting (Config.replyBodyMax - 1 - 2 - tail.length) ((d.rs.runs.toList.drop (first - 1)).map runBytes)
  num2 slots.length ++ slots.flatten ++ tail

/-! ## AM (R133, R136) -/

def reqOriginBytes : ReqOrigin → List Byte
  | .host => code 0
  | .entry ref => code 1 ++ refBytes ref
  | .drill => code 2

def reqBuildingBytes : ReqBuilding → List Byte
  | .granted => code 0
  | .playing => code 1
  | .lostPreempted => code 2 ++ code 0
  | .lostFailed => code 2 ++ code 1
  | .outQuiet => code 3 ++ code 0
  | .outDisabled => code 3 ++ code 1
  | .outFailed => code 3 ++ code 2

def requestBytes (r : AnnounceReq) : List Byte :=
  num2 r.id ++ reqOriginBytes r.origin ++ num2 r.clip ++ num2 r.length ++ zoneBytes r.zones ++
    code (reqPrioCode r.prio) ++ stampOrAbsent r.notBefore ++ yesNo r.eligible ++ num2 r.count ++
    code (if r.playing then 1 else 0)

/-- The reply to QUEUE LIST (R136). The ids in use by released sets stand in the order in which their requests ended (the
model's choice, log entry 55). -/
def queueListData (d : Dev) (start : Nat) : List Byte :=
  let head := code (playerCode d.am.player) ++ num2 d.am.nextId
  let playing := match playingReq d with
    | some r => buildings.flatMap fun b => match reqState r b with
      | some x => reqBuildingBytes x
      | none => []
    | none => []
  let tail := playing ++ d.am.released.flatMap fun p => num2 p.1 ++ [p.2]
  let shown := fitting (Config.replyBodyMax - 1 - head.length - 2 - tail.length)
    ((d.am.queue.drop start).map requestBytes)
  head ++ num2 shown.length ++ shown.flatten ++ tail

def finishedBytes (f : FinishedRec) : List Byte :=
  num2 f.id ++ reqOriginBytes f.origin ++ num2 f.clip ++ code (reqPrioCode f.prio) ++ code (reqOutcomeCode f.outcome) ++
    [f.delivered] ++ stampOrAbsent f.endTime

def finishedListData (d : Dev) : List Byte := d.am.finished.reverse.flatMap finishedBytes

/-! ## DC (R160, R182) -/

def elapsedBytes : Option Nat → List Byte
  | some n => if n < 65535 then num n else num (Config.wideNumber n)
  | none => num 65535

def recordBuildingBytes (x : RecordBuilding) : List Byte :=
  stampOrAbsent x.mute ++ stampOrAbsent x.clear ++ elapsedBytes x.elapsed

/-- A record as R182 lays it out. The read flag is sent as 1 for read (log entry 9). -/
def recordBytes (r : Record) : List Byte :=
  num2 r.number ++
    (match r.kind with
     | .drill n => code 0 ++ code n.1
     | .alarm => code 1 ++ code 255) ++
    [r.buildings] ++ stampOrAbsent r.start ++ stampOrAbsent r.evacStart ++
    r.at_.toList.flatMap recordBuildingBytes ++ num1 r.activations ++ stampOrAbsent r.lastActivation ++
    stampOrAbsent r.lineQuiet ++ stampOrAbsent r.endTime ++
    code (match r.outcome with
      | some o => recordOutcomeCode o
      | none => 0) ++
    code (if r.read then 1 else 0)

/-- The active drill of DRILL RECORD GET (R160), with its phase from PRE 0 to ALLCLEAR 3 (log entry 9). -/
def drillBytes (dr : Drill) : List Byte :=
  code (drillPhaseCode dr.phase) ++ num2 dr.count ++
    (bsList dr.buildings).flatMap fun b => code (trunkStateCode dr.at_[b])

def drillPlanBytes (p : DrillPlan) : List Byte := num2 p.script.1 ++ [p.buildings] ++ stamp p.moment

def scheduledBytes : ScheduledResult → List Byte
  | .none => code 0
  | .started n => code 1 ++ num2 n
  | .notStarted r => code 2 ++ code (notStartedCode r)

def drillRecordData (d : Dev) (r : Record) : List Byte :=
  recordBytes r ++ optional drillBytes d.dc.drill ++ optional drillPlanBytes d.dc.slot ++
    scheduledBytes d.dc.lastResult

/-! ## LP (R177, R180, R182) -/

def settingsData (x : Settings) : List Byte :=
  num2 x.lateWindow ++ num2 x.bellWindow ++ num2 x.announceExpiry ++ num2 x.pageTalk ++ num2 x.pageWait ++
    x.retry.toList.flatMap num2 ++ (x.bypass.toList.flatMap fun m => code (bypassCode m)) ++
    code (stampModeCode x.stampMode)

def bitIf (v : Bool) (n : Nat) : Nat := if v then 2 ^ n else 0

def countIf {α : Type} (p : α → Bool) (l : List α) : Nat := (l.filter p).length

def statusData (s : State) : List Byte :=
  let d := s.dev
  condBytes d.conds ++ condBytes s.link.mask ++
    code (bitIf (attnLow s) 0 + bitIf s.tb.time.isSome 1 + bitIf (s.tb.supply = .main) 2 + bitIf d.ah.hold 3 +
      bitIf d.ah.active 4 + bitIf d.dc.slot.isSome 5) ++
    stampOrAbsent s.tb.time ++
    code (match d.dc.drill with
      | none => 0
      | some dr => 1 + drillPhaseCode dr.phase) ++
    num1 ((d.bus.toList.map fun b => b.rows.length).sum) ++ num1 (countIf Option.isSome d.lines.toList) ++
    num2 (usedSlots d).length ++ num1 d.tt.exceptions.length ++
    num1 (countIf (fun o => o.any isActive) d.rs.runs.toList) ++ num1 d.rs.waitList.length ++
    num1 (countIf Option.isSome d.rs.gens.toList) ++ num1 d.am.queue.length ++ num1 d.am.finished.length ++
    num1 d.dc.records.length ++ num1 (countIf (fun r => r.holder != .none) d.ta.rows.toList) ++
    code (pageStateCode d.pu.a.state + 16 * pageStateCode d.pu.b.state) ++
    d.bus.toList.flatMap fun b => num1 b.queue.length

/-! ## The reply frame (R173, R175) -/

def byteSum (l : List Byte) : Nat := (l.map BitVec.toNat).sum

/-- The check of a frame: with it the bytes from the length on sum to 0 modulo 256. -/
def checkOf (l : List Byte) : Byte := byteOf (256 - byteSum l % 256)

/-- The frame of a reply: start, length, kind, tag, result, data, check. -/
def replyFrame (r : Replying) : List Byte :=
  let counted := code r.kind ++ num r.tag ++ code (resultCode r.result) ++ (if r.result = .ok then r.data else [])
  let body := byteOf counted.length :: counted
  165#8 :: (body ++ [checkOf body])

end Sys2Proof.Machine
end

