-- ==== Sys2Proof/Machine/Requests.lean ====
section
/-! DEFINITION. What each of the host's 52 requests does when its owner takes it, and what it is answered: one
definition per request, named after the rule's request, and `serve`, the index (section 11.6). -/

namespace Sys2Proof.Machine

/-- A request's effect, its result, and the data of an OK reply (R175). -/
structure Answer where
  state : State
  result : Result
  data : List Byte

/-- The request is refused: nothing changes. -/
def refuse (r : Result) (s : State) : Answer := { state := s, result := r, data := [] }

/-- The request is answered OK with no data. -/
def accept (s : State) : Answer := { state := s, result := .ok, data := [] }

/-- The request is answered OK with data, and nothing changes. -/
def report (data : List Byte) (s : State) : Answer := { state := s, result := .ok, data := data }

def mapDev (f : Dev → Dev) (s : State) : State := { s with dev := f s.dev }

/-- A number that names a member of a table. -/
def asFin (n k : Nat) : Option (Fin n) := if h : k < n then some ⟨k, h⟩ else none

/-- A date and second in range (R8, R85, R149). -/
def stampInRange (t : Stamp) : Bool := decide (t.day ≤ Config.lastDay) && decide (t.sec ≤ 86399)

/-- A campus time at or before now, or more than `limit` seconds after it. A time beyond the calendar's wrap is before now
(the model's choice, log entry 51). -/
def outsideReach (t now : Stamp) (limit : Nat) : Bool :=
  stampLe t now || decide (stampSeconds now + limit < stampSeconds t)

/-! ## TB -/

/-- TIME SET (R8). -/
def serveTimeSet (day sec : Nat) (s : State) : Answer :=
  if stampInRange { day := day, sec := sec } then accept (loadTime { day := day, sec := sec } s) else refuse .range s

/-- TIME GET (R9). -/
def serveTimeGet (s : State) : Answer := report (timeGetData s.tb) s

/-- TRIM SET (R4): the second in progress keeps its length. -/
def serveTrimSet (trim : Int) (s : State) : Answer :=
  if trim < -200 ∨ 200 < trim then refuse .range s else accept (setTb { s.tb with trim := trim } s)

/-- The fields of a SHIFT PLAN are in their ranges (R10). -/
def shiftInRange (day stated : Nat) (shift : Int) : Bool :=
  decide (day ≤ Config.lastDay) && decide (1 ≤ stated) && decide (stated ≤ 86399) && decide (shift ≠ 0) &&
    decide (shift % 60 = 0) && decide (-7200 ≤ shift) && decide (shift ≤ 7200) &&
    decide (0 ≤ (stated : Int) + shift) && decide ((stated : Int) + shift ≤ 86399)

/-- SHIFT PLAN (R10). A moment beyond the calendar's wrap is before the current time (log entry 51). -/
def serveShiftPlan (day stated : Nat) (shift : Int) (s : State) : Answer :=
  match s.tb.time with
  | none => refuse .noTime s
  | some now =>
    if !shiftInRange day stated shift || stampLe { day := day, sec := stated } now then refuse .range s
    else accept (setTb { s.tb with slot := some { day := day, stated := stated, shift := shift } } s)

/-- SHIFT CANCEL (R11). -/
def serveShiftCancel (s : State) : Answer := accept (setTb { s.tb with slot := none } s)

/-- STAMP GET (R16). -/
def serveStampGet (s : State) : Answer := report (stampGetData s.link.settings.stampMode s.tb) s

/-- STAMP CLEAR (R16). -/
def serveStampClear (s : State) : Answer :=
  accept (setTb { s.tb with stampCount := 0, stampStart := none, stampEnd := none } s)

/-! ## BC -/

/-- A station kind by its code; 3 is NONE (R26, R182). -/
def stationKindOf : Nat → Option (Option StationKind)
  | 0 => some (some .zoneSwitch)
  | 1 => some (some .lineDriver)
  | 2 => some (some .marshalPanel)
  | 3 => some none
  | _ => none

def countKind (bus : Bus) (k : StationKind) : Nat := countIf (fun r => r.kind == k) bus.rows

/-- A new station's row, and TA's awaiting of a new zone switch (R26, R97). -/
def configureStation (e : Env) (b : Building) (addr : Nat) (k : StationKind) (d : Dev) : Dev :=
  let d1 := addStation e b addr k d
  if k = .zoneSwitch then switchConfigured b d1 else d1

/-- STATION CONFIG (R26). -/
def serveStationConfig (building address kind : Nat) (s : State) : Answer :=
  if s.dev.ah.hold then refuse .refused s
  else
    match asFin 8 building, stationKindOf kind with
    | some b, some k =>
      if address < 1 ∨ 30 < address then refuse .range s
      else
        match k, rowAt s.dev.bus[b] address with
        | some _, some _ => refuse .conflict s
        | some k, none =>
          if kindLimit k ≤ countKind s.dev.bus[b] k then refuse .conflict s
          else accept (inBlocks (fun e d => configureStation e b address k d) s)
        | none, none => refuse .notFound s
        | none, some r => accept (inBlocks (fun _ d => removeStation b r d) s)
    | _, _ => refuse .range s

/-- STATION STATUS (R27). -/
def serveStationStatus (building : Nat) (s : State) : Answer :=
  match asFin 8 building with
  | some b => report (stationStatusData s.dev.bus[b]) s
  | none => refuse .range s

/-! ## LC -/

/-- The fields of a configuration are in their ranges (R42 check 1). -/
def lineFieldsOk (span hold catchUp width : Nat) : Bool :=
  (span == 720 || span == 1440) && decide (hold ≤ span / 2) && decide (1 ≤ catchUp) && decide (catchUp ≤ 10) &&
    decide (100 ≤ width) && decide (width ≤ 2000) && width % 100 == 0 && decide (width < catchUp * 1000)

/-- An impulse in flight or a probe (R42 check 2). -/
def lineBusy (l : Line) : Bool := l.inFlight.isSome || l.probe.isSome

/-- The line driver configured at an address. -/
def driverAt (bus : Bus) (addr : Nat) : Option Station :=
  (rowAt bus addr).filter fun r => r.kind == .lineDriver

/-- LINE CONFIG of a driver: written afresh, LINE UNSET latched, and evaluated (R42). -/
def configureLine (e : Env) (i : LineNo) (l : Line) (d : Dev) : Dev :=
  evaluate e i (latch .lineUnset (setLine i (some l) d))

/-- LINE CONFIG with an address of 1 to 30, past the RANGE check of line, building and address (R42). -/
def serveLineSetup (i : LineNo) (b : Building) (address : Nat) (span hold catchUp width : Option Nat) (s : State) :
    Answer :=
  let span := span.getD 0
  let hold := hold.getD 60
  let catchUp := catchUp.getD 2
  let width := width.getD 500
  if !lineFieldsOk span hold catchUp width then refuse .range s
  else if (s.dev.lines[i]).any lineBusy then refuse .busy s
  else
    match driverAt s.dev.bus[b] address with
    | none => refuse .notFound s
    | some r =>
      if (lineNos.filter fun j => j != i).any fun j =>
          (s.dev.lines[j]).any fun l => l.building == b && l.addr == address then refuse .conflict s
      else
        accept (inBlocks
          (fun e d => configureLine e i (freshLine b address span hold catchUp width (viewOf r.state)) d) s)

/-- LINE CONFIG with an address of 0 asks for the line's removal (R42). -/
def serveLineRemoval (i : LineNo) (s : State) : Answer :=
  match s.dev.lines[i] with
  | some l => if lineBusy l then refuse .busy s else accept (mapDev (setLine i none) s)
  | none => refuse .notFound s

/-- LINE CONFIG (R42). -/
def serveLineConfig (line building address : Nat) (span hold catchUp width : Option Nat) (s : State) : Answer :=
  match asFin 16 line, asFin 8 building with
  | some i, some b =>
    if 30 < address then refuse .range s
    else if address = 0 then serveLineRemoval i s
    else serveLineSetup i b address span hold catchUp width s
  | _, _ => refuse .range s

/-- DIAL SET (R45). -/
def serveDialSet (line hh mm : Nat) (s : State) : Answer :=
  match asFin 16 line with
  | none => refuse .range s
  | some i =>
    if 23 < hh ∨ 59 < mm then refuse .range s
    else
      match s.dev.lines[i] with
      | none => refuse .notFound s
      | some l =>
        if l.inFlight.isSome then refuse .busy s
        else accept (inBlocks (fun e d => evaluate e i (modLine i (setDial hh mm) d)) s)

/-- A request that names a configured line, else RANGE or NOTFOUND (R43, R53). -/
def onLine (line : Nat) (s : State) (f : LineNo → Line → Answer) : Answer :=
  match asFin 16 line with
  | none => refuse .range s
  | some i =>
    match s.dev.lines[i] with
    | none => refuse .notFound s
    | some l => f i l

/-- LINE ENABLE (R43). -/
def serveLineEnable (line : Nat) (s : State) : Answer :=
  onLine line s fun i _ =>
    accept (inBlocks (fun e d => evaluate e i (modLine i (fun l => { l with enabled := true }) d)) s)

/-- LINE DISABLE takes effect: the line shows DISABLED (log entry 29), and a probe still PENDING ends NONE (R43). -/
def disableLine (e : Env) (i : LineNo) (d : Dev) : Dev :=
  let d1 := modLine i (fun l => { l with enabled := false }) d
  match d1.lines[i] with
  | some l =>
    match l.probe with
    | some (_, .pending) => endProbe e i .none d1
    | _ => restate e i d1
  | none => d1

/-- LINE DISABLE (R43). -/
def serveLineDisable (line : Nat) (s : State) : Answer :=
  onLine line s fun i _ => accept (inBlocks (fun e d => disableLine e i d) s)

/-- LINE PROBE (R53). -/
def serveLineProbe (line : Nat) (s : State) : Answer :=
  onLine line s fun i l =>
    if l.state = .disabled ∨ l.state = .unset then refuse .refused s
    else if l.view ≠ .online then refuse .refused s
    else if l.probe.isSome then refuse .busy s
    else accept (inBlocks (fun e d => beginProbe e i .host d) s)

/-- LINE STATUS (R63). -/
def serveLineStatus (line : Nat) (s : State) : Answer :=
  match asFin 16 line with
  | none => refuse .range s
  | some i => report (lineStatusData s.tb.time s.dev.lines[i]) s

/-! ## TT -/

/-- The plan is today's and one of these entries is SENT (R66). -/
def planBusy (d : Dev) (p : PlanNo) (l : List Entry) : Bool := isToday d p && l.any isSent

/-- PLAN CLEAR (R66). -/
def servePlanClear (plan : Nat) (s : State) : Answer :=
  match asFin 16 plan with
  | none => refuse .range s
  | some p =>
    if planBusy s.dev p s.dev.tt.plans[p] then refuse .busy s else accept (mapDev (setPlan p []) s)

/-- The kind of an entry, if its fields are in range (R65 check 1). -/
def entryKindOf : EntryArg → Option EntryKind
  | .ring n => if 1 ≤ n ∧ n ≤ 32 then some (.ring n) else none
  | .clip n 0 => if 1 ≤ n ∧ n ≤ 64 then some (.clip n .normal) else none
  | .clip n 1 => if 1 ≤ n ∧ n ≤ 64 then some (.clip n .urgent) else none
  | .clip _ _ => none
  | .other _ => none

/-- The place of an entry in a plan's order. -/
def indexOfSlot (slot : Nat) (l : List Entry) : Nat := l.findIdx fun x => x.slot == slot

/-- ENTRY ADD (R65). -/
def serveEntryAdd (plan time : Nat) (kind : EntryArg) (zones : ZoneSet) (s : State) : Answer :=
  match asFin 16 plan, entryKindOf kind with
  | some p, some k =>
    if 86399 < time ∨ zones = 0 then refuse .range s
    else
      let l := s.dev.tt.plans[p]
      if l.any fun x => x.time == time && (x.zones &&& zones) != 0 then refuse .conflict s
      else
        let free := freeSlots s.dev
        if Config.planEntries ≤ l.length ∨ free = [] then refuse .full s
        else
          let (x, d) := addEntry p time k zones free s.dev
          { state := setDev d s, result := .ok, data := num2 (indexOfSlot x.slot d.tt.plans[p]) }
  | _, _ => refuse .range s

/-- ENTRY REMOVE (R66). -/
def serveEntryRemove (plan index : Nat) (s : State) : Answer :=
  match asFin 16 plan with
  | none => refuse .range s
  | some p =>
    match (s.dev.tt.plans[p])[index]? with
    | none => refuse .notFound s
    | some x =>
      if planBusy s.dev p [x] then refuse .busy s
      else accept (mapDev (setPlan p ((s.dev.tt.plans[p]).eraseIdx index)) s)

/-- ENTRY LIST (R67). -/
def serveEntryList (plan start : Nat) (s : State) : Answer :=
  match asFin 16 plan with
  | none => refuse .range s
  | some p => report (entryListData s.dev p start) s

/-- A plan, or the named value sent as 65535 (R182). -/
def planRefOf (named : PlanRef) (n : Nat) : Option PlanRef :=
  if n = 65535 then some named else (asFin 16 n).map .plan

def weekRef (n : Nat) : Option PlanRef := planRefOf .none n

/-- WEEK SET (R68). -/
def serveWeekSet (plans : Vector Nat 7) (s : State) : Answer :=
  if plans.toList.any fun n => (weekRef n).isNone then refuse .range s
  else accept (mapDev (fun d => reResolve (setTt { d.tt with week := tabMap (fun n => (weekRef n).getD .none) plans } d)) s)

/-- A row placed so that the rows stay in ascending order of first day (R69). -/
def insertRow (r : ExceptionRow) : List ExceptionRow → List ExceptionRow
  | [] => [r]
  | q :: rest => if q.first < r.first then q :: insertRow r rest else r :: q :: rest

/-- EXCEPTION ADD (R69). -/
def serveExceptionAdd (first last plan : Nat) (s : State) : Answer :=
  match planRefOf .silent plan with
  | none => refuse .range s
  | some ref =>
    if Config.lastDay < first ∨ Config.lastDay < last ∨ last < first ∨ first + 366 < last then refuse .range s
    else if s.dev.tt.exceptions.any fun r => decide (r.first ≤ last) && decide (first ≤ r.last) then refuse .conflict s
    else if Config.exceptionRows ≤ s.dev.tt.exceptions.length then refuse .full s
    else
      let row : ExceptionRow := { first := first, last := last, plan := ref }
      accept (mapDev (fun d => reResolve (setTt { d.tt with exceptions := insertRow row d.tt.exceptions } d)) s)

/-- EXCEPTION REMOVE (R70). -/
def serveExceptionRemove (day : Nat) (s : State) : Answer :=
  if Config.lastDay < day then refuse .range s
  else if s.dev.tt.exceptions.any fun r => r.first == day then
    accept (mapDev (fun d =>
      reResolve (setTt { d.tt with exceptions := d.tt.exceptions.filter fun r => r.first != day } d)) s)
  else refuse .notFound s

/-- EXCEPTION LIST (R70). -/
def serveExceptionList (start : Nat) (s : State) : Answer := report (exceptionListData s.dev.tt.exceptions start) s

/-- DAY QUERY (R71). -/
def serveDayQuery (day : Nat) (s : State) : Answer :=
  if Config.lastDay < day then refuse .range s else report (dayQueryData s.dev day) s

/-! ## TA -/

/-- ZONE SET (R84). -/
def serveZoneSet (zones : ZoneSet) (value : Nat) (s : State) : Answer :=
  match value with
  | 0 => accept (mapDev (modZones zones fun z => { z with enabled := true }) s)
  | 1 => accept (mapDev (modZones zones fun z => { z with enabled := false }) s)
  | _ => refuse .range s

/-- QUIET SET (R85). -/
def serveQuietSet (zones : ZoneSet) (t : Stamp) (s : State) : Answer :=
  match s.tb.time with
  | none => refuse .noTime s
  | some now =>
    if !stampInRange t || outsideReach t now 86400 then refuse .range s
    else if buildings.any (quietBusy s.dev zones) then refuse .busy s
    else accept (mapDev (modZones zones fun z => { z with quiet := some t }) s)

/-- QUIET CLEAR (R85). -/
def serveQuietClear (zones : ZoneSet) (s : State) : Answer :=
  accept (mapDev (modZones zones fun z => { z with quiet := none }) s)

/-- TRUNK STATUS (R101). -/
def serveTrunkStatus (building : Nat) (s : State) : Answer :=
  match asFin 8 building with
  | some b => report (trunkStatusData s.dev b) s
  | none => refuse .range s

/-! ## RS -/

/-- The places before the first END (R103). -/
def storedSteps : List StepPlace → List PStep
  | [] => []
  | .tone t n :: rest => .tone t n :: storedSteps rest
  | .gap n :: rest => .gap n :: storedSteps rest
  | .finish :: _ => []

/-- A stored step in range (R103). -/
def stepOk : PStep → Bool
  | .tone t n => decide (1 ≤ t) && decide (t ≤ 8) && decide (1 ≤ n) && decide (n ≤ 127)
  | .gap n => decide (1 ≤ n) && decide (n ≤ 127)

/-- A pattern's index in the library, from its number 1 to 32. -/
def patternIx (n : Nat) : Option (Fin 32) := if 1 ≤ n then asFin 32 (n - 1) else none

/-- PATTERN SET (R103). -/
def servePatternSet (pattern : Nat) (places : Vector StepPlace 8) (s : State) : Answer :=
  match patternIx pattern with
  | none => refuse .range s
  | some i =>
    let steps := storedSteps places.toList
    if steps.all stepOk then
      accept (mapDev (fun d => { d with rs := { d.rs with patterns := put d.rs.patterns i steps } }) s)
    else refuse .range s

/-- PATTERN GET (R103). -/
def servePatternGet (pattern : Nat) (s : State) : Answer :=
  match patternIx pattern with
  | none => refuse .range s
  | some i => report (patternGetData s.dev.rs.patterns[i]) s

/-- RING NOW (R109): the run's id is an optional field, absent for an EMPTY pattern. -/
def serveRingNow (pattern : Nat) (zones : ZoneSet) (s : State) : Answer :=
  match patternIx pattern with
  | none => refuse .range s
  | some i =>
    if zones = 0 then refuse .range s
    else if s.dev.ah.hold then refuse .refused s
    else if s.dev.rs.patterns[i] = [] then report (optional num2 none) s
    else
      match runIxs.find? (slotFree s.dev) with
      | none => refuse .full s
      | some r =>
        { state := inBlocks (fun e d => (createRun e .ringNow pattern zones e.now d).2) s
          result := .ok
          data := optional num2 (some (r.1 + 1)) }

/-- A run's slot, from its id 1 to 12. -/
def runIxOf (n : Nat) : Option RunIx := if 1 ≤ n then asFin 12 (n - 1) else none

/-- RUN STOP (R116). -/
def serveRunStop (run : Nat) (s : State) : Answer :=
  match runIxOf run with
  | none => refuse .range s
  | some r =>
    if (s.dev.rs.runs[r]).any isActive then accept (inBlocks (fun e d => finishRun e r .stopped d) s)
    else refuse .notFound s

/-- RUN LIST (R118). -/
def serveRunList (first : Nat) (s : State) : Answer :=
  match runIxOf first with
  | none => refuse .range s
  | some _ => report (runListData s.tb.clock s.dev first) s

/-! ## AM -/

/-- A clip's index in the clip table, from its number 1 to 64. -/
def clipIx (n : Nat) : Option (Fin 64) := if 1 ≤ n then asFin 64 (n - 1) else none

/-- CLIP DEFINE (R119). -/
def serveClipDefine (clip length : Nat) (s : State) : Answer :=
  match clipIx clip with
  | none => refuse .range s
  | some i =>
    if 3000 < length then refuse .range s
    else
      accept (mapDev (fun d =>
        setAm { d.am with clips := put d.am.clips i (if length = 0 then none else some length) } d) s)

/-- A priority by its code: NORMAL 0, URGENT 1. -/
def urgencyOf : Nat → Option Urgency
  | 0 => some .normal
  | 1 => some .urgent
  | _ => none

/-- ANNOUNCE from step 5 of R124 on. -/
def announceArrives (clip : Nat) (zones : ZoneSet) (u : Urgency) (notBefore : Option Stamp) (expiry : Option Nat)
    (s : State) : Answer :=
  let count := expiry.getD s.link.settings.announceExpiry
  let (a, d) := arrive .host clip zones (reqPrioOf u) notBefore count s.dev
  match a with
  | .taken id => { state := inBlocks (fun _ d => d) (setDev d s), result := .ok, data := num2 id }
  | .refused r => refuse r s

/-- ANNOUNCE (R124). R124 does not check a not-before time against the calendar: it counts as day × 86 400 + second, and
stands if it lies within R124's reach of the current time (log entry 43). -/
def serveAnnounce (clip : Nat) (zones : ZoneSet) (priority : Nat) (notBefore : Option Stamp) (expiry : Option Nat)
    (s : State) : Answer :=
  match clipIx clip, urgencyOf priority with
  | some _, some u =>
    if zones = 0 ∨ (expiry.any fun n => decide (n < 10) || decide (3600 < n)) = true then refuse .range s
    else if s.dev.ah.hold then refuse .refused s
    else
      match notBefore, s.tb.time with
      | some _, none => refuse .noTime s
      | some t, some now =>
        if outsideReach t now 86400 then refuse .range s else announceArrives clip zones u (some t) expiry s
      | none, _ => announceArrives clip zones u none expiry s
  | _, _ => refuse .range s

/-- ANNOUNCE CANCEL (R131). -/
def serveAnnounceCancel (id : Nat) (s : State) : Answer :=
  if id < 1 ∨ 255 < id then refuse .range s
  else
    match reqOf s.dev id with
    | none => refuse .notFound s
    | some r =>
      if r.origin = .drill then refuse .refused s
      else accept (inBlocks (fun e d => endRequest e id .cancelled ordinaryEnd d) s)

/-- QUEUE LIST (R136). -/
def serveQueueList (start : Nat) (s : State) : Answer := report (queueListData s.dev start) s

/-- FINISHED LIST (R133). -/
def serveFinishedList (s : State) : Answer := report (finishedListData s.dev) s

/-! ## PU -/

/-- A page slot by its code: A 0, B 1. -/
def pageSlotOf : Nat → Option PageSlot
  | 0 => some .a
  | 1 => some .b
  | _ => none

/-- A trigger mode by its code: LEVEL 0, EDGE 1. -/
def triggerOf : Nat → Option Trigger
  | 0 => some .level
  | 1 => some .edge
  | _ => none

/-- What PAGE SET makes of a slot (R137). -/
def configurePage (zones : ZoneSet) (u : Urgency) (chime : Nat) (t : Trigger) (p : Page) : Page :=
  { p with
    configured := zones != 0
    zones := zones
    urgency := u
    chimePattern := if chime = 0 then none else some chime
    trigger := t
    lockout := t = .level && p.seen }

/-- PAGE SET (R137). -/
def servePageSet (slot : Nat) (zones : ZoneSet) (priority chime trigger : Nat) (s : State) : Answer :=
  match pageSlotOf slot, urgencyOf priority, triggerOf trigger with
  | some k, some u, some t =>
    if 32 < chime then refuse .range s
    else if s.dev.ah.hold then refuse .refused s
    else if (pageOf s.dev k).state ≠ .idle then refuse .busy s
    else accept (mapDev (modPage k (configurePage zones u chime t)) s)
  | _, _, _ => refuse .range s

/-- PAGE CLOSE (R144). -/
def servePageClose (slot : Nat) (s : State) : Answer :=
  match pageSlotOf slot with
  | some k => accept (inBlocks (fun _ d => hostClose k d) s)
  | none => refuse .range s

/-! ## DC -/

/-- A clip of a script: 0 is none (R147). -/
def scriptClip (n : Nat) : Option Nat := if n = 0 then none else some n

/-- SCRIPT SET (R147): with a pattern of 0 the clear limit is not examined. -/
def serveScriptSet (script preClip preDelay pattern evacuation clearLimit allClear : Nat) (s : State) : Answer :=
  match asFin 4 script with
  | none => refuse .range s
  | some n =>
    if 64 < preClip ∨ 120 < preDelay ∨ 32 < pattern ∨ evacuation < 30 ∨ 600 < evacuation ∨ 64 < allClear then
      refuse .range s
    else if pattern ≠ 0 ∧ (clearLimit < 60 ∨ 1800 < clearLimit ∨ clearLimit < evacuation) then refuse .range s
    else
      let x : Script :=
        { preClip := scriptClip preClip, preDelay := preDelay, pattern := pattern, evacuation := evacuation,
          clearLimit := clearLimit, allClear := scriptClip allClear }
      accept (mapDev (fun d =>
        { d with dc := { d.dc with scripts := put d.dc.scripts n (if pattern = 0 then none else some x) } }) s)

/-- DRILL START (R148). -/
def serveDrillStart (script : Nat) (set : BuildingSet) (s : State) : Answer :=
  match asFin 4 script with
  | none => refuse .range s
  | some n =>
    if set = 0 then refuse .range s
    else if s.dev.ah.hold || s.dev.dc.drill.isSome then refuse .refused s
    else if s.tb.time.isNone then refuse .noTime s
    else
      match usableScript s.dev n with
      | none => refuse .notFound s
      | some x =>
        { state := inBlocks (fun e d => (startDrill e n x set d).2) s
          result := .ok
          data := num2 s.dev.dc.nextRecord }

/-- DRILL SCHEDULE (R149). -/
def serveDrillSchedule (script : Nat) (set : BuildingSet) (moment : Stamp) (s : State) : Answer :=
  match asFin 4 script with
  | none => refuse .range s
  | some n =>
    if set = 0 || !stampInRange moment then refuse .range s
    else if s.dev.ah.hold || s.dev.dc.drill.isSome then refuse .refused s
    else
      match s.tb.time with
      | none => refuse .noTime s
      | some now =>
        if outsideReach moment now 604800 then refuse .range s
        else if (usableScript s.dev n).isNone then refuse .notFound s
        else accept (mapDev (setDrillSlot (some { script := n, buildings := set, moment := moment })) s)

/-- DRILL CANCEL (R149, R157). -/
def serveDrillCancel (s : State) : Answer :=
  match s.dev.dc.drill with
  | some dr => accept (inBlocks (fun e d => cancelDrill e dr d) s)
  | none => if s.dev.dc.slot.isSome then accept (mapDev (setDrillSlot none) s) else refuse .notFound s

/-- The record that DRILL RECORD GET names: 0 is the newest (R160). -/
def namedRecord (d : Dev) (number : Nat) : Option Record :=
  if number = 0 then d.dc.records.getLast? else recordOf d number

/-- DRILL RECORD GET (R160): a closed record that is returned becomes read. -/
def serveDrillRecordGet (number : Nat) (s : State) : Answer :=
  match namedRecord s.dev number with
  | none => refuse .notFound s
  | some r =>
    { state := if r.outcome.isSome then mapDev (modRecord r.number fun x => { x with read := true }) s else s
      result := .ok
      data := drillRecordData s.dev r }

/-! ## AH -/

/-- ALARM RESUME (R171). -/
def serveAlarmResume (s : State) : Answer :=
  if !s.dev.ah.hold then refuse .notFound s
  else if s.dev.ah.active then refuse .refused s
  else accept (inBlocks (fun e d => resumeHold e d) s)

/-! ## LP -/

/-- STATUS (R180). -/
def serveStatus (s : State) : Answer := report (statusData s) s

/-- CONDITIONS CLEAR (R178). -/
def serveConditionsClear (c : CondSet) (s : State) : Answer := accept (mapDev (unlatch c) s)

/-- ATTENTION SET (R179). -/
def serveAttentionSet (c : CondSet) (s : State) : Answer := accept (setLink { s.link with mask := c } s)

/-- Every field of SETTINGS SET is in its range (R177). -/
def settingsOk (x : SettingsArg) : Bool :=
  decide (x.lateWindow ≤ 300) && decide (x.bellWindow ≤ 60) && decide (10 ≤ x.announceExpiry) &&
    decide (x.announceExpiry ≤ 3600) && decide (10 ≤ x.pageTalk) && decide (x.pageTalk ≤ 300) &&
    decide (1 ≤ x.pageWait) && decide (x.pageWait ≤ 30) &&
    (x.retry.toList.all fun n => decide (1 ≤ n) && decide (n ≤ 15)) &&
    (x.bypass.toList.all fun n => decide (n ≤ 1)) && decide (x.stampMode ≤ 1)

/-- The record that SETTINGS SET carries (R177). -/
def settingsOf (x : SettingsArg) : Settings :=
  { lateWindow := x.lateWindow, bellWindow := x.bellWindow, announceExpiry := x.announceExpiry,
    pageTalk := x.pageTalk, pageWait := x.pageWait, retry := x.retry,
    bypass := tabMap (fun n => if n = 0 then BypassMode.bypass else BypassMode.inOrder) x.bypass,
    stampMode := if x.stampMode = 0 then .first else .last }

/-- SETTINGS SET (R177). A bypass mode may let a waiting poll go, so every idle bus looks again (R32). -/
def serveSettingsSet (x : SettingsArg) (s : State) : Answer :=
  if settingsOk x then
    accept (inBlocks (fun _ d => pushAll (buildings.map .busStart) d)
      (setLink { s.link with settings := settingsOf x } s))
  else refuse .range s

/-- SETTINGS GET (R177). -/
def serveSettingsGet (s : State) : Answer := report (settingsData s.link.settings) s

/-- RESTART (R181): answered OK; it is taken when the reply has gone. -/
def serveRestart (s : State) : Answer := accept s

/-! ## The index -/

/-- A request reaches its owner (R175, section 11.6). -/
def serve (r : Request) (s : State) : Answer :=
  match r with
  | .timeSet day sec => serveTimeSet day sec s
  | .timeGet => serveTimeGet s
  | .trimSet t => serveTrimSet t s
  | .shiftPlan day stated shift => serveShiftPlan day stated shift s
  | .shiftCancel => serveShiftCancel s
  | .stampGet => serveStampGet s
  | .stampClear => serveStampClear s
  | .stationConfig b a k => serveStationConfig b a k s
  | .stationStatus b => serveStationStatus b s
  | .lineConfig l b a span hold catchUp width => serveLineConfig l b a span hold catchUp width s
  | .dialSet l hh mm => serveDialSet l hh mm s
  | .lineEnable l => serveLineEnable l s
  | .lineDisable l => serveLineDisable l s
  | .lineProbe l => serveLineProbe l s
  | .lineStatus l => serveLineStatus l s
  | .planClear p => servePlanClear p s
  | .entryAdd p t k z => serveEntryAdd p t k z s
  | .entryRemove p i => serveEntryRemove p i s
  | .entryList p i => serveEntryList p i s
  | .weekSet plans => serveWeekSet plans s
  | .exceptionAdd first last plan => serveExceptionAdd first last plan s
  | .exceptionRemove day => serveExceptionRemove day s
  | .exceptionList start => serveExceptionList start s
  | .dayQuery day => serveDayQuery day s
  | .zoneSet z v => serveZoneSet z v s
  | .quietSet z t => serveQuietSet z t s
  | .quietClear z => serveQuietClear z s
  | .trunkStatus b => serveTrunkStatus b s
  | .patternSet p places => servePatternSet p places s
  | .patternGet p => servePatternGet p s
  | .ringNow p z => serveRingNow p z s
  | .runStop r => serveRunStop r s
  | .runList r => serveRunList r s
  | .clipDefine c n => serveClipDefine c n s
  | .announce c z p nb x => serveAnnounce c z p nb x s
  | .announceCancel id => serveAnnounceCancel id s
  | .queueList start => serveQueueList start s
  | .finishedList => serveFinishedList s
  | .pageSet k z p c t => servePageSet k z p c t s
  | .pageClose k => servePageClose k s
  | .scriptSet n pre delay pattern evac limit clear => serveScriptSet n pre delay pattern evac limit clear s
  | .drillStart n set => serveDrillStart n set s
  | .drillSchedule n set t => serveDrillSchedule n set t s
  | .drillCancel => serveDrillCancel s
  | .drillRecordGet n => serveDrillRecordGet n s
  | .alarmResume => serveAlarmResume s
  | .status => serveStatus s
  | .conditionsClear c => serveConditionsClear c s
  | .attentionSet c => serveAttentionSet c s
  | .settingsSet x => serveSettingsSet x s
  | .settingsGet => serveSettingsGet s
  | .restart => serveRestart s

end Sys2Proof.Machine
end

