-- ==== Sys2Proof/Machine/Link.lean ====
section
/-! DEFINITION. LP's link: bytes and frames (R173), the two places for requests (R174), taking a request and its
reply (R175), and the RESTART that follows the reply to a RESTART request (R181). -/

namespace Sys2Proof.Machine

/-! ## Requests (R174, R175) -/

/-- LP takes a request: its effects and the content of its reply are fixed at this moment (R174). -/
def answerContent (c : Content) (s : State) : Answer :=
  match c with
  | .request r => serve r s
  | .unknownKind => refuse .unknown s
  | .badLength => refuse .range s
  | .fixed r => refuse r s

/-- A RESTART request, whose RESTART is taken when its reply has gone (R181). -/
def asksRestart (c : Content) : Bool := c = .request .restart

/-- The request is in reply from the moment it is taken (R174). -/
def takeContent (kind tag : Nat) (c : Content) (s : State) : State :=
  let a := answerContent c s
  setLink
    { a.state.link with
      inReply := some
        { kind := kind, tag := tag, result := a.result, data := a.data, restart := asksRestart c } } a.state

/-- A frame waits; a TIME SET loads its time at the end of its frame, where its result is fixed (R8, R174). -/
def holdContent (kind tag : Nat) (c : Content) (s : State) : State :=
  let wait (c : Content) (s : State) : State :=
    setLink { s.link with waiting := some { kind := kind, tag := tag, content := c } } s
  match c with
  | .request (.timeSet day sec) =>
    let a := serveTimeSet day sec s
    wait (.fixed a.result) a.state
  | c => wait c s

/-- A well-formed frame has ended (R174). On backup and while RESETN is held nothing is taken (R13, R176). -/
def frameArrives (kind tag : Nat) (c : Content) (s : State) : State :=
  if !isRunning s.tb then s
  else
    let s1 := setLink { s.link with rx := none } s
    match s1.link.inReply, s1.link.waiting with
    | none, _ => takeContent kind tag c s1
    | some _, none => holdContent kind tag c s1
    | some _, some _ => mapDev (latch .linkOverrun) s1

/-- The host's request, as the frame that carries it. -/
def hostRequest (tag : Nat) (r : Request) (s : State) : State := frameArrives (kindOf r) tag (.request r) s

/-- The last byte of a reply goes out (R174): a RESTART is taken (R181), or the waiting request. -/
def replyGone (s : State) : State :=
  if !isRunning s.tb then s
  else
    match s.link.inReply with
    | none => s
    | some r =>
      let s1 := setLink { s.link with inReply := none } s
      if r.restart then endRestart (beginRestart s1)
      else
        match s1.link.waiting with
        | some w => takeContent w.kind w.tag w.content (setLink { s1.link with waiting := none } s1)
        | none => s1

/-! ## Bytes (R173) -/

/-- The frame in reception is discarded: LINK ERROR, and HUNTING. -/
def discardFrame (s : State) : State := mapDev (latch .linkError) (setLink { s.link with rx := none } s)

/-- More than 100 ms have passed since the last byte of the frame in reception. -/
def gapPassed (s : State) : Bool :=
  s.link.rx.isSome && decide (Config.msTicks 100 ≤ s.tb.clock - s.link.rxAt)

/-- The length byte of the frame in reception. -/
def frameLength (bytes : List Byte) : Nat := (bytes.getD 1 0).toNat

/-- The frame in reception has all its bytes but the check. -/
def awaitsCheck (bytes : List Byte) : Bool := decide (2 ≤ bytes.length) && bytes.length == 2 + frameLength bytes

/-- The check arrives: the bytes from the length to the check sum to 0 modulo 256, or the frame is discarded. -/
def frameChecked (bytes : List Byte) (check : Byte) (s : State) : State :=
  if byteSum (bytes.drop 1 ++ [check]) % 256 = 0 then
    let kind := (bytes.getD 2 0).toNat
    let tag := (bytes.getD 3 0).toNat * 256 + (bytes.getD 4 0).toNat
    frameArrives kind tag (decodeBody kind (bytes.drop 5)) s
  else discardFrame s

/-- A byte of the frame in reception. -/
def frameByte (bytes : List Byte) (x : Byte) (s : State) : State :=
  let more : State := setLink { s.link with rx := some (bytes ++ [x]), rxAt := s.tb.clock } s
  if bytes.length = 1 then (if x.toNat < 3 ∨ 253 < x.toNat then discardFrame s else more)
  else if awaitsCheck bytes then frameChecked bytes x s
  else more

/-- A byte while HUNTING: 165 begins a frame, every other is discarded. -/
def huntByte (x : Byte) (s : State) : State :=
  if x = 165#8 then setLink { s.link with rx := some [x], rxAt := s.tb.clock } s else s

/-- A byte arrives on the link. One that comes after a gap finds the frame discarded. -/
def byteArrives (x : Byte) (s : State) : State :=
  if !isRunning s.tb then s
  else
    let s1 := if gapPassed s then discardFrame s else s
    match s1.link.rx with
    | some bytes => frameByte bytes x s1
    | none => huntByte x s1

end Sys2Proof.Machine
end

