-- ==== Sys2Proof/Machine/Clock.lean ====
section
/-! DEFINITION. One crystal tick, which is what a step does when no command waits (log entry 1): true time and the
sub-second count advance, and the events whose timers have run out are queued as commands. -/

namespace Sys2Proof.Machine

/-- An interval from `since` has run out. -/
def ranOut (clock since len : Nat) : Bool := decide (since + len ≤ clock)

def reached (clock : Nat) (t : Option Nat) : Bool := t.any fun u => decide (u ≤ clock)

/-- A row put into a list of rows that stands by ascending address. -/
def insertByAddress (r : Station) : List Station → List Station
  | [] => [r]
  | s :: rest => if r.addr < s.addr then r :: s :: rest else s :: insertByAddress r rest

/-- The rows of a bus by ascending address, the order of polls that fall due at the same moment (R32). -/
def byAddress (rows : List Station) : List Station := rows.foldl (fun l r => insertByAddress r l) []

/-- The driving-until times and polls of a bus that have run out (R23, R29, R30). -/
def dueOnBus (clock : Nat) (b : Building) (bus : Bus) : List Instr :=
  (byAddress bus.rows).flatMap fun r =>
    (if reached clock r.pollAt || reached clock r.probeAt then [Instr.pollDue b r.addr] else []) ++
      (if reached clock r.drivingUntil then [Instr.drivingUntil b r.addr] else [])

/-- A SOUNDING generator whose last step has run out (R104). A pattern without steps has no end to report. -/
def genOver (clock : Nat) (u : GenUse) : Bool :=
  u.phase = .sounding && !u.steps.isEmpty && ranOut clock u.since (Config.msTicks (playLength u.steps * 100))

/-- A push-to-talk input has held its new level for 50 ms (R138). -/
def pttOver (clock : Nat) (p : Page) : Bool := p.since.any fun t => ranOut clock t (Config.msTicks 50)

/-- FIRE has held the level being timed: 1 s toward ACTIVE, 10 s toward QUIET (R163). -/
def fireOver (clock : Nat) (h : AlarmHold) : List Instr :=
  match h.timing with
  | some t =>
    if h.level then (if ranOut clock t (Config.msTicks 1000) then [.activation] else [])
    else (if ranOut clock t (Config.msTicks 10000) then [.quieting] else [])
  | none => []

/-- The events of the blocks whose timers have run out. -/
def dueInBlocks (clock : Nat) (d : Dev) : List Instr :=
  (buildings.flatMap fun b => dueOnBus clock b d.bus[b]) ++
    (generators.flatMap fun g => if (d.rs.gens[g]).any (genOver clock) then [.patternEnd g] else []) ++
    (if reached clock d.am.startBy then [.startWindow] else []) ++
    (if reached clock d.am.endBy && d.am.player == .playing then [.endLimit] else []) ++
    (if reached clock d.am.stopBy then [.stopWindow] else []) ++
    (if pttOver clock d.pu.a then [.pttChange .a] else []) ++
    (if pttOver clock d.pu.b then [.pttChange .b] else []) ++ fireOver clock d.ah

/-- VMAIN has been valid without a break for 2 s (R14, R17). -/
def qualified (tb : Timebase) : Bool := tb.qualifying.any fun t => ranOut tb.clock t (Config.msTicks 2000)

/-- The second in progress has had all its ticks (R3). -/
def secondOver (tb : Timebase) : List Instr := if tb.secLen ≤ tb.sub then [.secondEnd] else []

/-- The commands whose timers have run out. -/
def dueCommands (s : State) : List Instr :=
  if !s.tb.retained then (if qualified s.tb then [.coldStart] else [])
  else if s.tb.supply = .backup then secondOver s.tb ++ (if qualified s.tb then [.restore] else [])
  else if s.tb.restart.isSome then secondOver s.tb
  else
    secondOver s.tb ++ (if gapPassed s then [.byteGap] else []) ++ dueInBlocks s.tb.clock s.dev

/-- One crystal tick (R3). With the retained state lost the time base is not kept. -/
def tick (s : State) : State :=
  let s1 := setTb { s.tb with clock := s.tb.clock + 1, sub := if s.tb.retained then s.tb.sub + 1 else s.tb.sub } s
  { s1 with pending := dueCommands s1 }

end Sys2Proof.Machine
end

