-- ==== Sys2Proof/Machine/Events.lean ====
section
/-! DEFINITION. The rows of the table that are events of the link, the crystal, the supplies, the buses, the clip
port, the switches, the fire input and the field stations. An event that cannot happen in a state leaves it as it is
(log entry 6); one that comes when a timer runs out happens whenever that timer is armed (log entry 2). A row that
names what one block does at a second event stands for that second event, where the event would happen at it (log
entry 4). -/

namespace Sys2Proof.Machine

/-- The main supply is on and the retained state valid: the buses are powered. -/
def isPowered (tb : Timebase) : Bool := tb.supply = .main && tb.retained

/-- An event of a block that happens while the device runs. -/
def whenRunning (f : Env → Dev → Dev) (s : State) : State := if isRunning s.tb then inBlocks f s else s

/-- An event of a bus, which carries an attempt on through a RESTART (R41). -/
def whenPowered (f : Env → Dev → Dev) (s : State) : State := if isPowered s.tb then inBlocks f s else s

/-! ## Link -/

/-- LINK_BYTE (R173). -/
def execLinkByte (x : Byte) (s : State) : Host.Outcome State Fault Refusal := .next (byteArrives x s)

/-- BYTE_GAP (R173). -/
def execByteGap (s : State) : Host.Outcome State Fault Refusal :=
  .next (if isRunning s.tb && s.link.rx.isSome then discardFrame s else s)

/-- FRAME_END (R174): the check byte of a frame that has all its other bytes. -/
def execFrameEnd (check : Byte) (s : State) : Host.Outcome State Fault Refusal :=
  .next (if s.link.rx.any awaitsCheck then byteArrives check s else s)

/-- REPLY_SENT (R174, R181). -/
def execReplySent (s : State) : Host.Outcome State Fault Refusal := .next (replyGone s)

/-! ## Time and supply -/

/-- SECOND_END (R3). -/
def execSecondEnd (s : State) : Host.Outcome State Fault Refusal := .next (endSecond s)

/-- SHIFT_APPLY (R12): the end of the second at which the planned shift applies. -/
def execShiftApply (s : State) : Host.Outcome State Fault Refusal :=
  .next (if (shiftDue s.tb).isSome then endSecond s else s)

/-- ENTRY_TO_BACKUP (R13). -/
def execEntryToBackup (taken : BuildingSet) (s : State) : Host.Outcome State Fault Refusal :=
  .next (if isPowered s.tb then enterBackup taken s else s)

/-- MAIN_SUPPLY_CHANGE (R14): a rise of VMAIN starts the qualification, a fall discards it; where VBAK is absent, the
fall leaves both supplies absent (R17). -/
def execMainSupplyChange (valid : Bool) (s : State) : Host.Outcome State Fault Refusal :=
  .next (if s.tb.supply = .backup ∧ s.tb.vmain ≠ valid then
      setTb (checkRetained { s.tb with vmain := valid, qualifying := if valid then some s.tb.clock else none }) s
    else s)

/-- RESTORE (R14). -/
def execRestore (s : State) : Host.Outcome State Fault Refusal :=
  .next (if s.tb.supply = .backup ∧ s.tb.retained = true ∧ s.tb.vmain = true then leaveBackup s else s)

/-- COLD_START (R17). -/
def execColdStart (s : State) : Host.Outcome State Fault Refusal :=
  .next (if s.tb.retained = false ∧ s.tb.vmain = true then coldStarts s else s)

/-- RESETN_ASSERT (R18): taken as a RESTART on the main supply. -/
def execResetnAssert (s : State) : Host.Outcome State Fault Refusal :=
  let s1 := setTb { s.tb with resetn := true } s
  .next (if !s.tb.resetn && isRunning s.tb then beginRestart s1 else s1)

/-- RESETN_RELEASE (R18): the RESTART ends. -/
def execResetnRelease (s : State) : Host.Outcome State Fault Refusal :=
  .next (endRestart (setTb { s.tb with resetn := false } s))

/-- BACKUP_SUPPLY_LOSS (R17): VBAK is lost. The retained state stops being valid at once where VMAIN is absent too, and
otherwise when VMAIN falls (log entry 38). -/
def execBackupSupplyLoss (s : State) : Host.Outcome State Fault Refusal :=
  .next (setTb (checkRetained { s.tb with vbak := false }) s)

/-! ## Buses -/

/-- SUCCESSFUL_ATTEMPT (R20). -/
def execSuccessfulAttempt (bus : Building) (shorted : Bool) (s : State) : Host.Outcome State Fault Refusal :=
  .next (whenPowered (fun e d => attemptSucceeds e bus shorted d) s)

/-- FAILED_ATTEMPT (R35). -/
def execFailedAttempt (bus : Building) (s : State) : Host.Outcome State Fault Refusal :=
  .next (whenPowered (fun e d => attemptFails e bus d) s)

/-- BUSY_LIMIT (R20). -/
def execBusyLimit (bus : Building) (shorted : Bool) (s : State) : Host.Outcome State Fault Refusal :=
  .next (whenPowered (fun e d => attemptBusy e bus shorted d) s)

/-- APPLY_MARK (R33). -/
def execApplyMark (bus : Building) (s : State) : Host.Outcome State Fault Refusal :=
  .next (whenPowered (fun _ d => applyEnds bus d) s)

/-- POLL_DUE (R29, R30). -/
def execPollDue (bus : Building) (address : Nat) (s : State) : Host.Outcome State Fault Refusal :=
  .next (whenRunning (fun e d => pollBecomesDue e bus address d) s)

/-- DRIVING_UNTIL (R23). -/
def execDrivingUntil (bus : Building) (address : Nat) (s : State) : Host.Outcome State Fault Refusal :=
  .next (whenPowered (fun _ d => drivingEnds bus address d) s)

/-! ## What one block does at a second event (log entry 4) -/

/-- The second event that ends the second in progress, where a row's event would happen at it. -/
def secondRow (happens : Bool) (s : State) : State := if isRunning s.tb && happens then endSecond s else s

/-- The line issues at the coming second event: its state, evaluated if the event carries a mark or a step, is
ADVANCE, nothing is in flight, and its pace reaches R (R48). -/
def issuesNext (tb : Timebase) (l : Line) : Bool :=
  let ev := secondEventOf tb
  let l1 := countLine l
  let st := if ev.minute || ev.step.isSome then lineStateOf ev.new l1 else l.state
  st == .advance && l.inFlight.isNone && decide (l.catchUp ≤ l1.pace)

/-- IMPULSE_ISSUE (R48). -/
def execImpulseIssue (line : LineNo) (s : State) : Host.Outcome State Fault Refusal :=
  .next (secondRow ((s.dev.lines[line]).any (issuesNext s.tb)) s)

/-- FAULT_PROBE (R55). -/
def execFaultProbe (line : LineNo) (s : State) : Host.Outcome State Fault Refusal :=
  .next (secondRow ((s.dev.lines[line]).any fun l => faultProbeReady (countLine l)) s)

/-- The entries that the coming second finds PENDING: of the plan of a new date, or of today's plan. -/
def pendingNext (s : State) : List Entry :=
  match (secondEventOf s.tb).day, nextTime s.tb with
  | true, some t =>
    match resolve s.dev t.day with
    | .plan p => s.dev.tt.plans[p]
    | _ => []
  | _, _ => (todayEntries s.dev).filter isPending

/-- ENTRY_DUE (R75). -/
def execEntryDue (slot : Nat) (s : State) : Host.Outcome State Fault Refusal :=
  .next (secondRow
    ((pendingNext s).any fun x => x.slot == slot && (nextTime s.tb).any fun t => x.time == t.sec) s)

/-- QUIET_END (R86). -/
def execQuietEnd (building : Building) (zone : Fin 8) (s : State) : Host.Outcome State Fault Refusal :=
  .next (secondRow
    ((s.dev.ta.zones[zoneIndex building zone]).quiet.any fun u => (nextTime s.tb).any fun t => stampLt u t) s)

/-- RING_DEADLINE (R111). -/
def execRingDeadline (run : RunIx) (s : State) : Host.Outcome State Fault Refusal :=
  .next (secondRow
    ((s.dev.rs.runs[run]).any fun r =>
      (r.state == .claiming || r.state == .genWait) && decide (r.count ≤ 1)) s)

/-- A QUEUED request becomes eligible at the coming second event (R126). -/
def eligibleNext (tb : Timebase) (r : AnnounceReq) : Bool :=
  !r.eligible && r.notBefore.any fun u => (nextTime tb).any fun t => stampLe u t

/-- ELIGIBLE (R126). -/
def execEligible (id : Nat) (s : State) : Host.Outcome State Fault Refusal :=
  .next (secondRow ((reqOf s.dev id).any fun r => !r.playing && eligibleNext s.tb r) s)

/-- EXPIRED (R126). -/
def execExpired (id : Nat) (s : State) : Host.Outcome State Fault Refusal :=
  .next (secondRow
    ((reqOf s.dev id).any fun r => !r.playing && (r.eligible || eligibleNext s.tb r) && decide (r.count ≤ 1)) s)

/-- PAGE_WAIT_LIMIT (R142). -/
def execPageWaitLimit (slot : PageSlot) (s : State) : Host.Outcome State Fault Refusal :=
  let p := pageOf s.dev slot
  .next (secondRow (p.state == .waiting && decide (s.link.settings.pageWait ≤ p.waitCount + 1)) s)

/-- PAGE_TALK_LIMIT (R143). -/
def execPageTalkLimit (slot : PageSlot) (s : State) : Host.Outcome State Fault Refusal :=
  let p := pageOf s.dev slot
  .next (secondRow (p.state == .opened && p.started && decide (s.link.settings.pageTalk ≤ p.talkCount + 1)) s)

/-- PRE_DELAY_END (R151). -/
def execPreDelayEnd (s : State) : Host.Outcome State Fault Refusal :=
  .next (secondRow
    (s.dev.dc.drill.any fun dr => dr.phase == .pre && dr.clip.isNone && decide (dr.script.preDelay ≤ dr.count + 1)) s)

/-- EVAC_END (R153). -/
def execEvacEnd (s : State) : Host.Outcome State Fault Refusal :=
  .next (secondRow
    (s.dev.dc.drill.any fun dr => dr.phase == .evac && decide (dr.script.evacuation ≤ dr.count + 1)) s)

/-- CLEAR_LIMIT (R156). -/
def execClearLimit (s : State) : Host.Outcome State Fault Refusal :=
  .next (secondRow
    (s.dev.dc.drill.any fun dr => dr.phase == .muster && decide (dr.script.clearLimit ≤ dr.count + 1)) s)

/-- SCHEDULED_DRILL_ARRIVAL (R150). -/
def execScheduledDrillArrival (s : State) : Host.Outcome State Fault Refusal :=
  .next (secondRow (s.dev.dc.slot.any fun p => planReached p (nextTime s.tb)) s)

/-! ## Generators and the clip port -/

/-- PATTERN_END (R104). -/
def execPatternEnd (gen : GenNo) (s : State) : Host.Outcome State Fault Refusal :=
  .next (whenRunning (fun e d => patternEnds e gen d) s)

/-- CPLAY_ASSERTED (R120). While the device does not run, the level alone changes. -/
def execCplayAsserted (s : State) : Host.Outcome State Fault Refusal :=
  .next (if isRunning s.tb then inBlocks (fun _ d => cplayUp d) s
    else mapDev (fun d => setAm { d.am with cplay := true } d) s)

/-- CPLAY_RELEASED (R120, R121). -/
def execCplayReleased (s : State) : Host.Outcome State Fault Refusal :=
  .next (if isRunning s.tb then inBlocks (fun e d => cplayDown e d) s
    else mapDev (fun d => setAm { d.am with cplay := false } d) s)

/-- START_WINDOW (R120). -/
def execStartWindow (s : State) : Host.Outcome State Fault Refusal :=
  .next (whenRunning (fun e d => if d.am.startBy.isSome then startWindowEnds e d else d) s)

/-- END_LIMIT (R120). -/
def execEndLimit (s : State) : Host.Outcome State Fault Refusal :=
  .next (whenRunning (fun e d => if d.am.endBy.isSome then endLimitEnds e d else d) s)

/-- STOP_WINDOW (R121). -/
def execStopWindow (s : State) : Host.Outcome State Fault Refusal :=
  .next (whenRunning (fun _ d => if d.am.stopBy.isSome then stopWindowEnds d else d) s)

/-! ## Switches, the fire input and the field stations -/

/-- PTT_LEVEL_CHANGE (R138). -/
def execPttLevelChange (slot : PageSlot) (asserted : Bool) (s : State) : Host.Outcome State Fault Refusal :=
  .next (if (pageOf s.dev slot).level = asserted then s else mapDev (pttLevel (envOf s) slot asserted) s)

/-- PTT_CHANGE (R138). -/
def execPttChange (slot : PageSlot) (s : State) : Host.Outcome State Fault Refusal :=
  .next (whenRunning (fun _ d => pttTaken slot d) s)

/-- FIRE_LEVEL_CHANGE (R163). -/
def execFireLevelChange (asserted : Bool) (s : State) : Host.Outcome State Fault Refusal :=
  .next (if s.dev.ah.level = asserted then s else mapDev (fireLevel (envOf s) asserted) s)

/-- FIRE's level is being timed toward a change of the input state (R163). -/
def fireTimed (d : Dev) (toActive : Bool) : Bool :=
  d.ah.timing.isSome && d.ah.level == toActive && d.ah.active == !toActive

/-- ACTIVATION (R163, R164). -/
def execActivation (s : State) : Host.Outcome State Fault Refusal :=
  .next (whenRunning (fun e d => if fireTimed d true then activationTaken e d else d) s)

/-- QUIETING (R163, R168). -/
def execQuieting (s : State) : Host.Outcome State Fault Refusal :=
  .next (whenRunning (fun e d => if fireTimed d false then quietingTaken e d else d) s)

/-- A press at a building's marshal panel: a latch already set stays as it was (R25). While no row names the panel's
address its press stands under address 0, and the first answer of the panel that a row then names carries it (log
entry 45). -/
def pressPanel (clock : Nat) (b : Building) (d : Dev) : Dev :=
  let addr := match rowOfKind d.bus[b] .marshalPanel with
    | some r => r.addr
    | none => 0
  let f := fieldAt d.bus[b] addr
  setBus b (setField d.bus[b] { f with press := some (f.press.getD clock) }) d

/-- BUILDING_CLEAR_PRESS (R25). A press made during an outage is not seen (R172). -/
def execBuildingClearPress (building : Building) (s : State) : Host.Outcome State Fault Refusal :=
  .next (if isPowered s.tb then mapDev (pressPanel s.tb.clock building) s else s)

/-- The probe status that a measurement leaves (R24). -/
def measured : Measured → ProbeStatus
  | .ok n => .ok n
  | .lineOpen => .lineOpen
  | .short => .short

/-- A driver's running measurement finishes (R24). -/
def finishMeasurement (b : Building) (address : Nat) (result : Measured) (d : Dev) : Dev :=
  let f := fieldAt d.bus[b] address
  if f.probe = .running then setBus b (setField d.bus[b] { f with probe := measured result }) d else d

/-- PROBE_MEASUREMENT_END (R24). A driver without power measures nothing (R13, R40). -/
def execProbeMeasurementEnd (bus : Building) (address : Nat) (result : Measured) (s : State) :
    Host.Outcome State Fault Refusal :=
  .next (if isPowered s.tb then mapDev (finishMeasurement bus address result) s else s)

end Sys2Proof.Machine
end

