-- ==== Sys2Proof/Machine/HostRequests.lean ====
section
/-! DEFINITION. The 52 rows of the table that are the host's requests: each is the end of a well-formed frame with
that request (R174; log entry 5), served by the definition named after it in Requests.lean. -/

namespace Sys2Proof.Machine

/-- TIME_SET (R8). -/
def execTimeSet (tag : Nat) (day sec : Nat) (s : State) : Host.Outcome State Fault Refusal :=
  .next (hostRequest tag (.timeSet day sec) s)

/-- TIME_GET (R9). -/
def execTimeGet (tag : Nat) (s : State) : Host.Outcome State Fault Refusal :=
  .next (hostRequest tag (.timeGet) s)

/-- TRIM_SET (R4). -/
def execTrimSet (tag : Nat) (trim : Int) (s : State) : Host.Outcome State Fault Refusal :=
  .next (hostRequest tag (.trimSet trim) s)

/-- SHIFT_PLAN (R10). -/
def execShiftPlan (tag : Nat) (day stated : Nat) (shift : Int) (s : State) : Host.Outcome State Fault Refusal :=
  .next (hostRequest tag (.shiftPlan day stated shift) s)

/-- SHIFT_CANCEL (R11). -/
def execShiftCancel (tag : Nat) (s : State) : Host.Outcome State Fault Refusal :=
  .next (hostRequest tag (.shiftCancel) s)

/-- STAMP_GET (R16). -/
def execStampGet (tag : Nat) (s : State) : Host.Outcome State Fault Refusal :=
  .next (hostRequest tag (.stampGet) s)

/-- STAMP_CLEAR (R16). -/
def execStampClear (tag : Nat) (s : State) : Host.Outcome State Fault Refusal :=
  .next (hostRequest tag (.stampClear) s)

/-- STATION_CONFIG (R26). -/
def execStationConfig (tag : Nat) (building address kind : Nat) (s : State) : Host.Outcome State Fault Refusal :=
  .next (hostRequest tag (.stationConfig building address kind) s)

/-- STATION_STATUS (R27). -/
def execStationStatus (tag : Nat) (building : Nat) (s : State) : Host.Outcome State Fault Refusal :=
  .next (hostRequest tag (.stationStatus building) s)

/-- LINE_CONFIG (R42). -/
def execLineConfig (tag : Nat) (line building address : Nat) (span hold catchUp width : Option Nat) (s : State) :
    Host.Outcome State Fault Refusal :=
  .next (hostRequest tag (.lineConfig line building address span hold catchUp width) s)

/-- DIAL_SET (R45). -/
def execDialSet (tag : Nat) (line hh mm : Nat) (s : State) : Host.Outcome State Fault Refusal :=
  .next (hostRequest tag (.dialSet line hh mm) s)

/-- LINE_ENABLE (R43). -/
def execLineEnable (tag : Nat) (line : Nat) (s : State) : Host.Outcome State Fault Refusal :=
  .next (hostRequest tag (.lineEnable line) s)

/-- LINE_DISABLE (R43). -/
def execLineDisable (tag : Nat) (line : Nat) (s : State) : Host.Outcome State Fault Refusal :=
  .next (hostRequest tag (.lineDisable line) s)

/-- LINE_PROBE (R53). -/
def execLineProbe (tag : Nat) (line : Nat) (s : State) : Host.Outcome State Fault Refusal :=
  .next (hostRequest tag (.lineProbe line) s)

/-- LINE_STATUS (R63). -/
def execLineStatus (tag : Nat) (line : Nat) (s : State) : Host.Outcome State Fault Refusal :=
  .next (hostRequest tag (.lineStatus line) s)

/-- PLAN_CLEAR (R66). -/
def execPlanClear (tag : Nat) (plan : Nat) (s : State) : Host.Outcome State Fault Refusal :=
  .next (hostRequest tag (.planClear plan) s)

/-- ENTRY_ADD (R65). -/
def execEntryAdd (tag : Nat) (plan time : Nat) (kind : EntryArg) (zones : ZoneSet) (s : State) :
    Host.Outcome State Fault Refusal :=
  .next (hostRequest tag (.entryAdd plan time kind zones) s)

/-- ENTRY_REMOVE (R66). -/
def execEntryRemove (tag : Nat) (plan index : Nat) (s : State) : Host.Outcome State Fault Refusal :=
  .next (hostRequest tag (.entryRemove plan index) s)

/-- ENTRY_LIST (R67). -/
def execEntryList (tag : Nat) (plan start : Nat) (s : State) : Host.Outcome State Fault Refusal :=
  .next (hostRequest tag (.entryList plan start) s)

/-- WEEK_SET (R68). -/
def execWeekSet (tag : Nat) (plans : Vector Nat 7) (s : State) : Host.Outcome State Fault Refusal :=
  .next (hostRequest tag (.weekSet plans) s)

/-- EXCEPTION_ADD (R69). -/
def execExceptionAdd (tag : Nat) (first last plan : Nat) (s : State) : Host.Outcome State Fault Refusal :=
  .next (hostRequest tag (.exceptionAdd first last plan) s)

/-- EXCEPTION_REMOVE (R70). -/
def execExceptionRemove (tag : Nat) (day : Nat) (s : State) : Host.Outcome State Fault Refusal :=
  .next (hostRequest tag (.exceptionRemove day) s)

/-- EXCEPTION_LIST (R70). -/
def execExceptionList (tag : Nat) (start : Nat) (s : State) : Host.Outcome State Fault Refusal :=
  .next (hostRequest tag (.exceptionList start) s)

/-- DAY_QUERY (R71). -/
def execDayQuery (tag : Nat) (day : Nat) (s : State) : Host.Outcome State Fault Refusal :=
  .next (hostRequest tag (.dayQuery day) s)

/-- ZONE_SET (R84). -/
def execZoneSet (tag : Nat) (zones : ZoneSet) (value : Nat) (s : State) : Host.Outcome State Fault Refusal :=
  .next (hostRequest tag (.zoneSet zones value) s)

/-- QUIET_SET (R85). -/
def execQuietSet (tag : Nat) (zones : ZoneSet) (until_ : Stamp) (s : State) : Host.Outcome State Fault Refusal :=
  .next (hostRequest tag (.quietSet zones until_) s)

/-- QUIET_CLEAR (R85). -/
def execQuietClear (tag : Nat) (zones : ZoneSet) (s : State) : Host.Outcome State Fault Refusal :=
  .next (hostRequest tag (.quietClear zones) s)

/-- TRUNK_STATUS (R101). -/
def execTrunkStatus (tag : Nat) (building : Nat) (s : State) : Host.Outcome State Fault Refusal :=
  .next (hostRequest tag (.trunkStatus building) s)

/-- PATTERN_SET (R103). -/
def execPatternSet (tag : Nat) (pattern : Nat) (places : Vector StepPlace 8) (s : State) :
    Host.Outcome State Fault Refusal :=
  .next (hostRequest tag (.patternSet pattern places) s)

/-- PATTERN_GET (R103). -/
def execPatternGet (tag : Nat) (pattern : Nat) (s : State) : Host.Outcome State Fault Refusal :=
  .next (hostRequest tag (.patternGet pattern) s)

/-- RING_NOW (R109). -/
def execRingNow (tag : Nat) (pattern : Nat) (zones : ZoneSet) (s : State) : Host.Outcome State Fault Refusal :=
  .next (hostRequest tag (.ringNow pattern zones) s)

/-- RUN_STOP (R116). -/
def execRunStop (tag : Nat) (run : Nat) (s : State) : Host.Outcome State Fault Refusal :=
  .next (hostRequest tag (.runStop run) s)

/-- RUN_LIST (R118). -/
def execRunList (tag : Nat) (first : Nat) (s : State) : Host.Outcome State Fault Refusal :=
  .next (hostRequest tag (.runList first) s)

/-- CLIP_DEFINE (R119). -/
def execClipDefine (tag : Nat) (clip length : Nat) (s : State) : Host.Outcome State Fault Refusal :=
  .next (hostRequest tag (.clipDefine clip length) s)

/-- ANNOUNCE (R124). -/
def execAnnounce (tag : Nat) (clip : Nat) (zones : ZoneSet) (priority : Nat) (notBefore : Option Stamp)
    (expiry : Option Nat) (s : State) :
    Host.Outcome State Fault Refusal :=
  .next (hostRequest tag (.announce clip zones priority notBefore expiry) s)

/-- ANNOUNCE_CANCEL (R131). -/
def execAnnounceCancel (tag : Nat) (id : Nat) (s : State) : Host.Outcome State Fault Refusal :=
  .next (hostRequest tag (.announceCancel id) s)

/-- QUEUE_LIST (R136). -/
def execQueueList (tag : Nat) (start : Nat) (s : State) : Host.Outcome State Fault Refusal :=
  .next (hostRequest tag (.queueList start) s)

/-- FINISHED_LIST (R133). -/
def execFinishedList (tag : Nat) (s : State) : Host.Outcome State Fault Refusal :=
  .next (hostRequest tag (.finishedList) s)

/-- PAGE_SET (R137). -/
def execPageSet (tag : Nat) (slot : Nat) (zones : ZoneSet) (priority chime trigger : Nat) (s : State) :
    Host.Outcome State Fault Refusal :=
  .next (hostRequest tag (.pageSet slot zones priority chime trigger) s)

/-- PAGE_CLOSE (R144). -/
def execPageClose (tag : Nat) (slot : Nat) (s : State) : Host.Outcome State Fault Refusal :=
  .next (hostRequest tag (.pageClose slot) s)

/-- SCRIPT_SET (R147). -/
def execScriptSet (tag : Nat) (script preClip preDelay pattern evacuation clearLimit allClear : Nat) (s : State) :
    Host.Outcome State Fault Refusal :=
  .next (hostRequest tag (.scriptSet script preClip preDelay pattern evacuation clearLimit allClear) s)

/-- DRILL_START (R148). -/
def execDrillStart (tag : Nat) (script : Nat) (buildings : BuildingSet) (s : State) :
    Host.Outcome State Fault Refusal :=
  .next (hostRequest tag (.drillStart script buildings) s)

/-- DRILL_SCHEDULE (R149). -/
def execDrillSchedule (tag : Nat) (script : Nat) (buildings : BuildingSet) (moment : Stamp) (s : State) :
    Host.Outcome State Fault Refusal :=
  .next (hostRequest tag (.drillSchedule script buildings moment) s)

/-- DRILL_CANCEL (R157). -/
def execDrillCancel (tag : Nat) (s : State) : Host.Outcome State Fault Refusal :=
  .next (hostRequest tag (.drillCancel) s)

/-- DRILL_RECORD_GET (R160). -/
def execDrillRecordGet (tag : Nat) (number : Nat) (s : State) : Host.Outcome State Fault Refusal :=
  .next (hostRequest tag (.drillRecordGet number) s)

/-- ALARM_RESUME (R171). -/
def execAlarmResume (tag : Nat) (s : State) : Host.Outcome State Fault Refusal :=
  .next (hostRequest tag (.alarmResume) s)

/-- STATUS (R180). -/
def execStatus (tag : Nat) (s : State) : Host.Outcome State Fault Refusal :=
  .next (hostRequest tag (.status) s)

/-- CONDITIONS_CLEAR (R178). -/
def execConditionsClear (tag : Nat) (conditions : CondSet) (s : State) : Host.Outcome State Fault Refusal :=
  .next (hostRequest tag (.conditionsClear conditions) s)

/-- ATTENTION_SET (R179). -/
def execAttentionSet (tag : Nat) (conditions : CondSet) (s : State) : Host.Outcome State Fault Refusal :=
  .next (hostRequest tag (.attentionSet conditions) s)

/-- SETTINGS_SET (R177). -/
def execSettingsSet (tag : Nat) (settings : SettingsArg) (s : State) : Host.Outcome State Fault Refusal :=
  .next (hostRequest tag (.settingsSet settings) s)

/-- SETTINGS_GET (R177). -/
def execSettingsGet (tag : Nat) (s : State) : Host.Outcome State Fault Refusal :=
  .next (hostRequest tag (.settingsGet) s)

/-- RESTART (R181). -/
def execRestart (tag : Nat) (s : State) : Host.Outcome State Fault Refusal :=
  .next (hostRequest tag (.restart) s)

end Sys2Proof.Machine
end

