-- ==== Sys2Proof/Machine/Dispatch.lean ====
section
/-! DEFINITION. The meaning of every command: one arm per constructor of Instr. -/

namespace Sys2Proof.Machine

def exec (i : Instr) (s : State) : Host.Outcome State Fault Refusal :=
  match i with
  | .timeSet tag day sec => Sys2Proof.Machine.execTimeSet tag day sec s
  | .timeGet tag => Sys2Proof.Machine.execTimeGet tag s
  | .trimSet tag trim => Sys2Proof.Machine.execTrimSet tag trim s
  | .shiftPlan tag day stated shift => Sys2Proof.Machine.execShiftPlan tag day stated shift s
  | .shiftCancel tag => Sys2Proof.Machine.execShiftCancel tag s
  | .stampGet tag => Sys2Proof.Machine.execStampGet tag s
  | .stampClear tag => Sys2Proof.Machine.execStampClear tag s
  | .stationConfig tag building address kind => Sys2Proof.Machine.execStationConfig tag building address kind s
  | .stationStatus tag building => Sys2Proof.Machine.execStationStatus tag building s
  | .lineConfig tag line building address span hold catchUp width => Sys2Proof.Machine.execLineConfig tag line building address span hold catchUp width s
  | .dialSet tag line hh mm => Sys2Proof.Machine.execDialSet tag line hh mm s
  | .lineEnable tag line => Sys2Proof.Machine.execLineEnable tag line s
  | .lineDisable tag line => Sys2Proof.Machine.execLineDisable tag line s
  | .lineProbe tag line => Sys2Proof.Machine.execLineProbe tag line s
  | .lineStatus tag line => Sys2Proof.Machine.execLineStatus tag line s
  | .planClear tag plan => Sys2Proof.Machine.execPlanClear tag plan s
  | .entryAdd tag plan time kind zones => Sys2Proof.Machine.execEntryAdd tag plan time kind zones s
  | .entryRemove tag plan index => Sys2Proof.Machine.execEntryRemove tag plan index s
  | .entryList tag plan start => Sys2Proof.Machine.execEntryList tag plan start s
  | .weekSet tag plans => Sys2Proof.Machine.execWeekSet tag plans s
  | .exceptionAdd tag first last plan => Sys2Proof.Machine.execExceptionAdd tag first last plan s
  | .exceptionRemove tag day => Sys2Proof.Machine.execExceptionRemove tag day s
  | .exceptionList tag start => Sys2Proof.Machine.execExceptionList tag start s
  | .dayQuery tag day => Sys2Proof.Machine.execDayQuery tag day s
  | .zoneSet tag zones value => Sys2Proof.Machine.execZoneSet tag zones value s
  | .quietSet tag zones until_ => Sys2Proof.Machine.execQuietSet tag zones until_ s
  | .quietClear tag zones => Sys2Proof.Machine.execQuietClear tag zones s
  | .trunkStatus tag building => Sys2Proof.Machine.execTrunkStatus tag building s
  | .patternSet tag pattern places => Sys2Proof.Machine.execPatternSet tag pattern places s
  | .patternGet tag pattern => Sys2Proof.Machine.execPatternGet tag pattern s
  | .ringNow tag pattern zones => Sys2Proof.Machine.execRingNow tag pattern zones s
  | .runStop tag run => Sys2Proof.Machine.execRunStop tag run s
  | .runList tag first => Sys2Proof.Machine.execRunList tag first s
  | .clipDefine tag clip length => Sys2Proof.Machine.execClipDefine tag clip length s
  | .announce tag clip zones priority notBefore expiry => Sys2Proof.Machine.execAnnounce tag clip zones priority notBefore expiry s
  | .announceCancel tag id => Sys2Proof.Machine.execAnnounceCancel tag id s
  | .queueList tag start => Sys2Proof.Machine.execQueueList tag start s
  | .finishedList tag => Sys2Proof.Machine.execFinishedList tag s
  | .pageSet tag slot zones priority chime trigger => Sys2Proof.Machine.execPageSet tag slot zones priority chime trigger s
  | .pageClose tag slot => Sys2Proof.Machine.execPageClose tag slot s
  | .scriptSet tag script preClip preDelay pattern evacuation clearLimit allClear => Sys2Proof.Machine.execScriptSet tag script preClip preDelay pattern evacuation clearLimit allClear s
  | .drillStart tag script buildings => Sys2Proof.Machine.execDrillStart tag script buildings s
  | .drillSchedule tag script buildings moment => Sys2Proof.Machine.execDrillSchedule tag script buildings moment s
  | .drillCancel tag => Sys2Proof.Machine.execDrillCancel tag s
  | .drillRecordGet tag number => Sys2Proof.Machine.execDrillRecordGet tag number s
  | .alarmResume tag => Sys2Proof.Machine.execAlarmResume tag s
  | .status tag => Sys2Proof.Machine.execStatus tag s
  | .conditionsClear tag conditions => Sys2Proof.Machine.execConditionsClear tag conditions s
  | .attentionSet tag conditions => Sys2Proof.Machine.execAttentionSet tag conditions s
  | .settingsSet tag settings => Sys2Proof.Machine.execSettingsSet tag settings s
  | .settingsGet tag => Sys2Proof.Machine.execSettingsGet tag s
  | .restart tag => Sys2Proof.Machine.execRestart tag s
  | .linkByte x => Sys2Proof.Machine.execLinkByte x s
  | .byteGap => Sys2Proof.Machine.execByteGap s
  | .frameEnd check => Sys2Proof.Machine.execFrameEnd check s
  | .replySent => Sys2Proof.Machine.execReplySent s
  | .secondEnd => Sys2Proof.Machine.execSecondEnd s
  | .shiftApply => Sys2Proof.Machine.execShiftApply s
  | .entryToBackup taken => Sys2Proof.Machine.execEntryToBackup taken s
  | .mainSupplyChange valid => Sys2Proof.Machine.execMainSupplyChange valid s
  | .restore => Sys2Proof.Machine.execRestore s
  | .coldStart => Sys2Proof.Machine.execColdStart s
  | .resetnAssert => Sys2Proof.Machine.execResetnAssert s
  | .resetnRelease => Sys2Proof.Machine.execResetnRelease s
  | .successfulAttempt bus shorted => Sys2Proof.Machine.execSuccessfulAttempt bus shorted s
  | .failedAttempt bus => Sys2Proof.Machine.execFailedAttempt bus s
  | .busyLimit bus shorted => Sys2Proof.Machine.execBusyLimit bus shorted s
  | .applyMark bus => Sys2Proof.Machine.execApplyMark bus s
  | .pollDue bus address => Sys2Proof.Machine.execPollDue bus address s
  | .drivingUntil bus address => Sys2Proof.Machine.execDrivingUntil bus address s
  | .impulseIssue line => Sys2Proof.Machine.execImpulseIssue line s
  | .faultProbe line => Sys2Proof.Machine.execFaultProbe line s
  | .entryDue slot => Sys2Proof.Machine.execEntryDue slot s
  | .quietEnd building zone => Sys2Proof.Machine.execQuietEnd building zone s
  | .ringDeadline run => Sys2Proof.Machine.execRingDeadline run s
  | .patternEnd gen => Sys2Proof.Machine.execPatternEnd gen s
  | .eligible id => Sys2Proof.Machine.execEligible id s
  | .expired id => Sys2Proof.Machine.execExpired id s
  | .cplayAsserted => Sys2Proof.Machine.execCplayAsserted s
  | .cplayReleased => Sys2Proof.Machine.execCplayReleased s
  | .startWindow => Sys2Proof.Machine.execStartWindow s
  | .endLimit => Sys2Proof.Machine.execEndLimit s
  | .stopWindow => Sys2Proof.Machine.execStopWindow s
  | .pttLevelChange slot asserted => Sys2Proof.Machine.execPttLevelChange slot asserted s
  | .pttChange slot => Sys2Proof.Machine.execPttChange slot s
  | .pageWaitLimit slot => Sys2Proof.Machine.execPageWaitLimit slot s
  | .pageTalkLimit slot => Sys2Proof.Machine.execPageTalkLimit slot s
  | .preDelayEnd => Sys2Proof.Machine.execPreDelayEnd s
  | .evacEnd => Sys2Proof.Machine.execEvacEnd s
  | .clearLimit => Sys2Proof.Machine.execClearLimit s
  | .scheduledDrillArrival => Sys2Proof.Machine.execScheduledDrillArrival s
  | .fireLevelChange asserted => Sys2Proof.Machine.execFireLevelChange asserted s
  | .activation => Sys2Proof.Machine.execActivation s
  | .quieting => Sys2Proof.Machine.execQuieting s
  | .buildingClearPress building => Sys2Proof.Machine.execBuildingClearPress building s
  | .probeMeasurementEnd bus address result => Sys2Proof.Machine.execProbeMeasurementEnd bus address result s
  | .backupSupplyLoss => Sys2Proof.Machine.execBackupSupplyLoss s

end Sys2Proof.Machine
end

