-- ==== Sys2Proof/WellFormed.lean ====
section
/-! DEFINITION. Well-formed commands: every operand fits the field that carries it (R182 for a request's fields, the
rule of the row for an event's). A number that fits its field but lies outside its rule's range is well-formed: the
rule answers it RANGE. -/

namespace Sys2Proof

/-! ## Fields -/

/-- A number of two bytes (R182). -/
def numFits (n : Nat) : Bool := decide (n < 65536)

/-- A named value of one byte (R182). -/
def codeFits (n : Nat) : Bool := decide (n < 256)

/-- A time of day of three bytes (R182). -/
def todFits (n : Nat) : Bool := decide (n < 16777216)

/-- A time stamp of five bytes (R182). -/
def stampFits (t : Stamp) : Bool := numFits t.day && todFits t.sec

/-- A signed number in two bytes of two's complement (R182). -/
def signedFits (z : Int) : Bool := decide (-32768 ≤ z) && decide (z < 32768)

/-- An optional field (R182). -/
def optionalFits {α : Type} (f : α → Bool) : Option α → Bool
  | some x => f x
  | none => true

/-- A step place of PATTERN SET (R103, R182). -/
def placeFits : StepPlace → Bool
  | .tone t n => numFits t && numFits n
  | .gap n => numFits n
  | .finish => true

/-- The kind of an entry, in its order RING, CLIP (R64, R182): `other` is a kind byte that names neither. -/
def entryArgFits : EntryArg → Bool
  | .ring n => numFits n
  | .clip n p => numFits n && codeFits p
  | .other k => codeFits k && decide (2 ≤ k)

/-- Every field of SETTINGS SET (R177, R182). -/
def settingsFit (x : SettingsArg) : Bool :=
  numFits x.lateWindow && numFits x.bellWindow && numFits x.announceExpiry && numFits x.pageTalk &&
    numFits x.pageWait && x.retry.toList.all numFits && x.bypass.toList.all codeFits && codeFits x.stampMode

/-! ## Requests -/

/-- Every field of a request fits its bytes (R182). -/
def requestFits : Request → Bool
  | .timeSet day sec => numFits day && todFits sec
  | .timeGet => true
  | .trimSet trim => signedFits trim
  | .shiftPlan day stated shift => numFits day && todFits stated && signedFits shift
  | .shiftCancel => true
  | .stampGet => true
  | .stampClear => true
  | .stationConfig building address kind => numFits building && numFits address && codeFits kind
  | .stationStatus building => numFits building
  | .lineConfig line building address span hold catchUp width =>
    numFits line && numFits building && numFits address && optionalFits numFits span && optionalFits numFits hold &&
      optionalFits numFits catchUp && optionalFits numFits width
  | .dialSet line hh mm => numFits line && numFits hh && numFits mm
  | .lineEnable line => numFits line
  | .lineDisable line => numFits line
  | .lineProbe line => numFits line
  | .lineStatus line => numFits line
  | .planClear plan => numFits plan
  | .entryAdd plan time kind _ => numFits plan && todFits time && entryArgFits kind
  | .entryRemove plan index => numFits plan && numFits index
  | .entryList plan start => numFits plan && numFits start
  | .weekSet plans => plans.toList.all numFits
  | .exceptionAdd first last plan => numFits first && numFits last && numFits plan
  | .exceptionRemove day => numFits day
  | .exceptionList start => numFits start
  | .dayQuery day => numFits day
  | .zoneSet _ value => codeFits value
  | .quietSet _ until_ => stampFits until_
  | .quietClear _ => true
  | .trunkStatus building => numFits building
  | .patternSet pattern places => numFits pattern && places.toList.all placeFits
  | .patternGet pattern => numFits pattern
  | .ringNow pattern _ => numFits pattern
  | .runStop run => numFits run
  | .runList first => numFits first
  | .clipDefine clip length => numFits clip && numFits length
  | .announce clip _ priority notBefore expiry =>
    numFits clip && codeFits priority && optionalFits stampFits notBefore && optionalFits numFits expiry
  | .announceCancel id => numFits id
  | .queueList start => numFits start
  | .finishedList => true
  | .pageSet slot _ priority chime trigger => codeFits slot && codeFits priority && numFits chime && codeFits trigger
  | .pageClose slot => codeFits slot
  | .scriptSet script preClip preDelay pattern evacuation clearLimit allClear =>
    numFits script && numFits preClip && numFits preDelay && numFits pattern && numFits evacuation &&
      numFits clearLimit && numFits allClear
  | .drillStart script _ => numFits script
  | .drillSchedule script _ moment => numFits script && stampFits moment
  | .drillCancel => true
  | .drillRecordGet number => numFits number
  | .alarmResume => true
  | .status => true
  | .conditionsClear _ => true
  | .attentionSet _ => true
  | .settingsSet settings => settingsFit settings
  | .settingsGet => true
  | .restart => true

/-! ## Commands -/

/-- The tag and the request of a row that is a host request (section 11.6), none for every other row. -/
def asRequest : Instr → Option (Nat × Request)
  | .timeSet tag day sec => some (tag, .timeSet day sec)
  | .timeGet tag => some (tag, .timeGet)
  | .trimSet tag trim => some (tag, .trimSet trim)
  | .shiftPlan tag day stated shift => some (tag, .shiftPlan day stated shift)
  | .shiftCancel tag => some (tag, .shiftCancel)
  | .stampGet tag => some (tag, .stampGet)
  | .stampClear tag => some (tag, .stampClear)
  | .stationConfig tag building address kind => some (tag, .stationConfig building address kind)
  | .stationStatus tag building => some (tag, .stationStatus building)
  | .lineConfig tag line building address span hold catchUp width =>
    some (tag, .lineConfig line building address span hold catchUp width)
  | .dialSet tag line hh mm => some (tag, .dialSet line hh mm)
  | .lineEnable tag line => some (tag, .lineEnable line)
  | .lineDisable tag line => some (tag, .lineDisable line)
  | .lineProbe tag line => some (tag, .lineProbe line)
  | .lineStatus tag line => some (tag, .lineStatus line)
  | .planClear tag plan => some (tag, .planClear plan)
  | .entryAdd tag plan time kind zones => some (tag, .entryAdd plan time kind zones)
  | .entryRemove tag plan index => some (tag, .entryRemove plan index)
  | .entryList tag plan start => some (tag, .entryList plan start)
  | .weekSet tag plans => some (tag, .weekSet plans)
  | .exceptionAdd tag first last plan => some (tag, .exceptionAdd first last plan)
  | .exceptionRemove tag day => some (tag, .exceptionRemove day)
  | .exceptionList tag start => some (tag, .exceptionList start)
  | .dayQuery tag day => some (tag, .dayQuery day)
  | .zoneSet tag zones value => some (tag, .zoneSet zones value)
  | .quietSet tag zones until_ => some (tag, .quietSet zones until_)
  | .quietClear tag zones => some (tag, .quietClear zones)
  | .trunkStatus tag building => some (tag, .trunkStatus building)
  | .patternSet tag pattern places => some (tag, .patternSet pattern places)
  | .patternGet tag pattern => some (tag, .patternGet pattern)
  | .ringNow tag pattern zones => some (tag, .ringNow pattern zones)
  | .runStop tag run => some (tag, .runStop run)
  | .runList tag first => some (tag, .runList first)
  | .clipDefine tag clip length => some (tag, .clipDefine clip length)
  | .announce tag clip zones priority notBefore expiry => some (tag, .announce clip zones priority notBefore expiry)
  | .announceCancel tag id => some (tag, .announceCancel id)
  | .queueList tag start => some (tag, .queueList start)
  | .finishedList tag => some (tag, .finishedList)
  | .pageSet tag slot zones priority chime trigger => some (tag, .pageSet slot zones priority chime trigger)
  | .pageClose tag slot => some (tag, .pageClose slot)
  | .scriptSet tag script preClip preDelay pattern evacuation clearLimit allClear =>
    some (tag, .scriptSet script preClip preDelay pattern evacuation clearLimit allClear)
  | .drillStart tag script buildings => some (tag, .drillStart script buildings)
  | .drillSchedule tag script buildings moment => some (tag, .drillSchedule script buildings moment)
  | .drillCancel tag => some (tag, .drillCancel)
  | .drillRecordGet tag number => some (tag, .drillRecordGet number)
  | .alarmResume tag => some (tag, .alarmResume)
  | .status tag => some (tag, .status)
  | .conditionsClear tag conditions => some (tag, .conditionsClear conditions)
  | .attentionSet tag conditions => some (tag, .attentionSet conditions)
  | .settingsSet tag settings => some (tag, .settingsSet settings)
  | .settingsGet tag => some (tag, .settingsGet)
  | .restart tag => some (tag, .restart)
  | .linkByte _ => none
  | .byteGap => none
  | .frameEnd _ => none
  | .replySent => none
  | .secondEnd => none
  | .shiftApply => none
  | .entryToBackup _ => none
  | .mainSupplyChange _ => none
  | .restore => none
  | .coldStart => none
  | .resetnAssert => none
  | .resetnRelease => none
  | .successfulAttempt _ _ => none
  | .failedAttempt _ => none
  | .busyLimit _ _ => none
  | .applyMark _ => none
  | .pollDue _ _ => none
  | .drivingUntil _ _ => none
  | .impulseIssue _ => none
  | .faultProbe _ => none
  | .entryDue _ => none
  | .quietEnd _ _ => none
  | .ringDeadline _ => none
  | .patternEnd _ => none
  | .eligible _ => none
  | .expired _ => none
  | .cplayAsserted => none
  | .cplayReleased => none
  | .startWindow => none
  | .endLimit => none
  | .stopWindow => none
  | .pttLevelChange _ _ => none
  | .pttChange _ => none
  | .pageWaitLimit _ => none
  | .pageTalkLimit _ => none
  | .preDelayEnd => none
  | .evacEnd => none
  | .clearLimit => none
  | .scheduledDrillArrival => none
  | .fireLevelChange _ => none
  | .activation => none
  | .quieting => none
  | .buildingClearPress _ => none
  | .probeMeasurementEnd _ _ _ => none
  | .backupSupplyLoss => none

/-- A station's address is 1 to 30 (section 2.3). -/
def addressFits (n : Nat) : Bool := decide (1 ≤ n) && decide (n ≤ 30)

/-- A measurement's load estimate is 0 to 60 (R24). -/
def measuredFits : Measured → Bool
  | .ok load => decide (load ≤ 60)
  | .lineOpen => true
  | .short => true

/-- The operands of an event that are not already of the type that bounds them: addresses, pool slots (R64),
announcement ids (R122) and measurements. -/
def eventFits : Instr → Bool
  | .timeSet _ _ _ => true
  | .timeGet _ => true
  | .trimSet _ _ => true
  | .shiftPlan _ _ _ _ => true
  | .shiftCancel _ => true
  | .stampGet _ => true
  | .stampClear _ => true
  | .stationConfig _ _ _ _ => true
  | .stationStatus _ _ => true
  | .lineConfig _ _ _ _ _ _ _ _ => true
  | .dialSet _ _ _ _ => true
  | .lineEnable _ _ => true
  | .lineDisable _ _ => true
  | .lineProbe _ _ => true
  | .lineStatus _ _ => true
  | .planClear _ _ => true
  | .entryAdd _ _ _ _ _ => true
  | .entryRemove _ _ _ => true
  | .entryList _ _ _ => true
  | .weekSet _ _ => true
  | .exceptionAdd _ _ _ _ => true
  | .exceptionRemove _ _ => true
  | .exceptionList _ _ => true
  | .dayQuery _ _ => true
  | .zoneSet _ _ _ => true
  | .quietSet _ _ _ => true
  | .quietClear _ _ => true
  | .trunkStatus _ _ => true
  | .patternSet _ _ _ => true
  | .patternGet _ _ => true
  | .ringNow _ _ _ => true
  | .runStop _ _ => true
  | .runList _ _ => true
  | .clipDefine _ _ _ => true
  | .announce _ _ _ _ _ _ => true
  | .announceCancel _ _ => true
  | .queueList _ _ => true
  | .finishedList _ => true
  | .pageSet _ _ _ _ _ _ => true
  | .pageClose _ _ => true
  | .scriptSet _ _ _ _ _ _ _ _ => true
  | .drillStart _ _ _ => true
  | .drillSchedule _ _ _ _ => true
  | .drillCancel _ => true
  | .drillRecordGet _ _ => true
  | .alarmResume _ => true
  | .status _ => true
  | .conditionsClear _ _ => true
  | .attentionSet _ _ => true
  | .settingsSet _ _ => true
  | .settingsGet _ => true
  | .restart _ => true
  | .linkByte _ => true
  | .byteGap => true
  | .frameEnd _ => true
  | .replySent => true
  | .secondEnd => true
  | .shiftApply => true
  | .entryToBackup _ => true
  | .mainSupplyChange _ => true
  | .restore => true
  | .coldStart => true
  | .resetnAssert => true
  | .resetnRelease => true
  | .successfulAttempt _ _ => true
  | .failedAttempt _ => true
  | .busyLimit _ _ => true
  | .applyMark _ => true
  | .pollDue _ address => addressFits address
  | .drivingUntil _ address => addressFits address
  | .impulseIssue _ => true
  | .faultProbe _ => true
  | .entryDue slot => decide (slot < Config.poolSlots)
  | .quietEnd _ _ => true
  | .ringDeadline _ => true
  | .patternEnd _ => true
  | .eligible id => decide (1 ≤ id) && decide (id ≤ 255)
  | .expired id => decide (1 ≤ id) && decide (id ≤ 255)
  | .cplayAsserted => true
  | .cplayReleased => true
  | .startWindow => true
  | .endLimit => true
  | .stopWindow => true
  | .pttLevelChange _ _ => true
  | .pttChange _ => true
  | .pageWaitLimit _ => true
  | .pageTalkLimit _ => true
  | .preDelayEnd => true
  | .evacEnd => true
  | .clearLimit => true
  | .scheduledDrillArrival => true
  | .fireLevelChange _ => true
  | .activation => true
  | .quieting => true
  | .buildingClearPress _ => true
  | .probeMeasurementEnd _ address result => addressFits address && measuredFits result
  | .backupSupplyLoss => true

/-- A well-formed command: a request whose tag and fields fit their bytes, or an event whose operands fit. -/
def wellFormed (i : Instr) : Bool :=
  match asRequest i with
  | some (tag, r) => numFits tag && requestFits r
  | none => eventFits i

end Sys2Proof
end

