-- ==== Sys2Proof/Safety.lean ====
section
/-! DEFINITION. What the claims speak of: the laws that every state of a run keeps (time, link, lines, bus queues,
collections, the alarm hold), the state in which a host request is taken at once, and the state in which its reply is
being sent. -/

namespace Sys2Proof.Machine

/-! ## Requests and replies -/

/-- A well-formed frame that ends now is taken at once: the device runs and no request is in reply (R174). -/
def takesAtOnce (s : State) : Bool := isRunning s.tb && s.link.inReply.isNone

/-- The state in which LP takes a request: it is HUNTING again. -/
def hunting (s : State) : State := { s with link := { s.link with rx := none } }

/-- The state after a request has been taken: LP is HUNTING again, and the reply with this result and data is being
sent; `t` holds the request's effect (R174, R175). -/
def replied (tag : Nat) (r : Request) (result : Result) (data : List Byte) (t : State) : State :=
  { t with
    link := { t.link with
      rx := none
      inReply := some { kind := kindOf r, tag := tag, result := result, data := data, restart := r = .restart } } }

/-- A change in the blocks with all that the blocks then hand one another. -/
def settled (s : State) (d : Dev) : State := { s with dev := settle (envOf s) d }

/-! ## Time (R1, R3, R4, R10, R15) -/

/-- A date and second of the calendar (R1). -/
def stampLawful (t : Stamp) : Bool := decide (t.day ≤ 36524) && decide (t.sec ≤ 86399)

def stampLawfulOr : Option Stamp → Bool
  | some t => stampLawful t
  | none => true

/-- A plan that SHIFT PLAN accepts (R10). -/
def planLawful (p : ShiftPlan) : Bool :=
  decide (p.day ≤ 36524) && decide (1 ≤ p.stated) && decide (p.stated ≤ 86399) && decide (p.shift ≠ 0) &&
    decide (p.shift % 60 = 0) && decide (-7200 ≤ p.shift) && decide (p.shift ≤ 7200) &&
    decide (0 ≤ (p.stated : Int) + p.shift) && decide ((p.stated : Int) + p.shift ≤ 86399)

/-- Campus time, the trim, the second in progress, the planned shift and the outage stamp are in their ranges. -/
def timeLawful (tb : Timebase) : Bool :=
  stampLawfulOr tb.time && decide (-200 ≤ tb.trim) && decide (tb.trim ≤ 200) && decide (32568 ≤ tb.secLen) &&
    decide (tb.secLen ≤ 32968) && tb.slot.all planLawful && decide (tb.stampCount ≤ 255) &&
    stampLawfulOr tb.stampStart && stampLawfulOr tb.stampEnd

/-! ## The link (R173, R174, R177) -/

/-- Every campus setting is in its range (R177). -/
def settingsLawful (x : Settings) : Bool :=
  decide (x.lateWindow ≤ 300) && decide (x.bellWindow ≤ 60) && decide (10 ≤ x.announceExpiry) &&
    decide (x.announceExpiry ≤ 3600) && decide (10 ≤ x.pageTalk) && decide (x.pageTalk ≤ 300) &&
    decide (1 ≤ x.pageWait) && decide (x.pageWait ≤ 30) &&
    x.retry.toList.all fun n => decide (1 ≤ n) && decide (n ≤ 15)

/-- The settings are in range, and a request waits only while another is in reply (R174). -/
def linkLawful (l : Link) : Bool := settingsLawful l.settings && (l.waiting.isNone || l.inReply.isSome)

/-! ## Clock lines (R42, R50) -/

/-- The second law of R50: a line with a dial position stands at POS exactly when the position is odd, and a line
without one has no polarity. -/
def lineLawful (l : Line) : Bool :=
  (l.span == 720 || l.span == 1440) &&
    match l.pos with
    | some p => decide (p < l.span) && l.pol == some (parityOf p)
    | none => l.pol.isNone

def linesLawful (d : Dev) : Bool := lineNos.all fun i => (d.lines[i]).all lineLawful

/-! ## Bus queues (R31, R38) -/

/-- A queue holds at most 6 commands in NORMAL mode; in ALARM mode at most 2, none of them a STAGE. -/
def queueLawful (bus : Bus) : Bool :=
  if bus.alarm then decide (bus.queue.length ≤ 2) && bus.queue.all fun c => !isStage c.op
  else decide (bus.queue.length ≤ 6)

def queuesLawful (d : Dev) : Bool := buildings.all fun b => queueLawful d.bus[b]

/-- On backup every queue is empty (R40). -/
def queuesEmpty (d : Dev) : Bool := buildings.all fun b => (d.bus[b]).queue.isEmpty

/-! ## Collections (R65, R69, R112, R123, R133, R158) -/

def planNos : List PlanNo := List.finRange 16

/-- Every collection holds no more than its rule allows. -/
def capsLawful (d : Dev) : Bool :=
  (planNos.all fun p => decide ((d.tt.plans[p]).length ≤ 96)) && decide (d.tt.exceptions.length ≤ 40) &&
    decide (d.rs.waitList.length ≤ 8) && decide (d.am.queue.length ≤ 12) && decide (d.am.finished.length ≤ 8) &&
    decide (d.dc.records.length ≤ 8)

/-! ## The alarm hold (R99, R117, R134, R146, R161) -/

/-- While the hold is in force, every trunk with a zone switch configured is held by ALARM. -/
def trunksForced (d : Dev) : Bool :=
  !d.ah.hold || buildings.all fun b => (switchOf d b).isNone || d.ta.rows[b].holder == .alarm

/-- While the hold is in force nothing else is under way: no active run and none waiting, no request, no page that is
open or waiting, no drill (R117, R134, R146, R161). -/
def holdClears (d : Dev) : Bool :=
  !d.ah.hold ||
    (runIxs.all fun r => !(d.rs.runs[r]).any isActive) && d.rs.waitList.isEmpty && d.am.queue.isEmpty &&
      d.pu.a.state == .idle && d.pu.b.state == .idle && d.dc.drill.isNone

/-! ## Conditions (R178) -/

/-- Every condition of the first set is in the second. -/
def condsWithin (c c' : CondSet) : Bool := c &&& c' == c

end Sys2Proof.Machine
end

