-- ==== Sys2Proof/Certificates/Slice0/Obligations.lean ====
section
/-! DEFINITION. The statements for the provers, in the order of the chapters: the step and the link, then TB, BC, LC,
TT, TA, RS, AM, PU, DC, AH, and the laws that every step keeps. A statement of a request's result is an equation of its
reply: `replied tag r result data t` is the state in which that reply is being sent, `t` the request's effect, so that
what it does not name in `t` is unchanged (R174, R175). `settled s d` is the state `s` with the blocks `d` and all that
the blocks then hand one another (log entry 7). -/

section Statements

open Sys2Proof Sys2Proof.Machine

/-! ## The step -/

/-- A step carries out the command at the front of the queue. -/
def Obligations.StepRunsTheFrontCommand : Prop :=
  ∀ (c : Instr) (rest : List Instr) (s : State), s.pending = c :: rest →
    step s = exec c { s with pending := rest }

/-- On an empty queue a step is one crystal tick (the model's choice, log entry 1): the counts of R3 advance by one,
nothing else of time, link and blocks changes, and the events whose time has come are queued as commands. Each is queued
exactly when its interval of true time has passed: the end of the second when the second has had its length (R3), on
backup and in a RESTART too; RESTORE and a COLD start when VMAIN has been valid for 2 s (R14, R17); and while the device
runs a gap of more than 100 ms in a frame (R173), a poll or a probe poll at its time and a driving-until time (R23, R29,
R30), the end of a pattern after its play length (R102, R104), the ends of the start window, the end limit and the stop
window (R120, R121), a push-to-talk level after 50 ms (R138), and FIRE after 1 s toward ACTIVE and 10 s toward QUIET
(R163). No other command is queued. Polls of one bus that fall due at one tick are queued by ascending address (R32). The
last clause says what the length in ticks of a number of milliseconds is, wherever a statement names it: the least number
of ticks that lasts so long. -/
def Obligations.IdleStepIsOneCrystalTick : Prop :=
  (∀ s : State, s.pending = [] →
    let now : Nat := s.tb.clock + 1
    let passed (ms since : Nat) : Prop := since * 1000 + ms * 32768 ≤ now * 1000
    let come (x : Option Nat) : Prop := ∃ u, x = some u ∧ u ≤ now
    let runs : Prop := s.tb.supply = .main ∧ s.tb.retained = true ∧ s.tb.restart = none
    let qualified : Prop := ∃ u, s.tb.qualifying = some u ∧ passed 2000 u
    let queued : Instr → Prop := fun
      | .secondEnd => s.tb.retained = true ∧ s.tb.secLen ≤ s.tb.sub + 1
      | .coldStart => s.tb.retained = false ∧ qualified
      | .restore => s.tb.retained = true ∧ s.tb.supply = .backup ∧ qualified
      | .byteGap => runs ∧ s.link.rx.isSome = true ∧ passed 100 s.link.rxAt
      | .pollDue b addr => runs ∧ ∃ r ∈ (s.dev.bus[b]).rows, r.addr = addr ∧ (come r.pollAt ∨ come r.probeAt)
      | .drivingUntil b addr => runs ∧ ∃ r ∈ (s.dev.bus[b]).rows, r.addr = addr ∧ come r.drivingUntil
      | .patternEnd g => runs ∧ ∃ u, s.dev.rs.gens[g] = some u ∧ u.phase = .sounding ∧ u.steps ≠ [] ∧
          passed ((u.steps.map fun | .tone _ n => n | .gap n => n).sum * 100) u.since
      | .startWindow => runs ∧ come s.dev.am.startBy
      | .endLimit => runs ∧ s.dev.am.player = .playing ∧ come s.dev.am.endBy
      | .stopWindow => runs ∧ come s.dev.am.stopBy
      | .pttChange k => runs ∧ ∃ u, (pageOf s.dev k).since = some u ∧ passed 50 u
      | .activation => runs ∧ s.dev.ah.level = true ∧ ∃ u, s.dev.ah.timing = some u ∧ passed 1000 u
      | .quieting => runs ∧ s.dev.ah.level = false ∧ ∃ u, s.dev.ah.timing = some u ∧ passed 10000 u
      | _ => False
    ∃ t, step s = .next t ∧ t.dev = s.dev ∧ t.link = s.link ∧
      t.tb = { s.tb with clock := now, sub := if s.tb.retained then s.tb.sub + 1 else s.tb.sub } ∧
      (∀ c : Instr, c ∈ t.pending ↔ queued c) ∧
      ∀ (b : Building) (x y : Nat) (before after : List Instr), t.pending = before ++ .pollDue b x :: after →
        .pollDue b y ∈ before → y ≤ x) ∧
  (∀ ms n : Nat, Config.msTicks ms ≤ n ↔ ms * 32768 ≤ n * 1000)

/-- No command stops the machine, and none touches the queue of commands. -/
def Obligations.EveryCommandHasANextState : Prop :=
  ∀ (c : Instr) (s : State), ∃ t, exec c s = .next t ∧ t.pending = s.pending

/-- The state after reset is that of a COLD start, spelled block by block: TB (R17), LP (R176 to R179), the buses (R26,
R41) with every field station as it is when powered, its probe status NONE, its lamp OFF and its latch clear (R24,
R25), LC (R62), TT (R83), TA (R84, R100), RS (R102, R117), AM (R119, R135), PU (R146), DC (R162) and AH (R163,
R172). The values that ColdStartClearsTheDevice names are those spelled here. The maps of a zone switch and the
polarity of a line driver, the levels of the inputs, the clip select lines and the strobe, what TB notes of an
outage, and the model's own counters are the model's choice (log entries 12, 20 and 38). -/
def Obligations.ResetHasTheColdValues : Prop :=
  (State.reset.tb.time = none ∧ State.reset.tb.sub = 0 ∧ State.reset.tb.secLen = 32768 ∧ State.reset.tb.trim = 0 ∧
    State.reset.tb.slot = none ∧ State.reset.tb.supply = .main ∧ State.reset.tb.stampCount = 0 ∧
    State.reset.tb.stampStart = none ∧ State.reset.tb.stampEnd = none ∧ State.reset.tb.outageStart = none ∧
    State.reset.tb.outageShift = none ∧ State.reset.tb.restart = none ∧ State.reset.tb.retained = true ∧
    State.reset.tb.vmain = true ∧ State.reset.tb.vbak = true ∧ State.reset.tb.resetn = false ∧
    State.reset.tb.qualifying = none) ∧
  (State.reset.link.rx = none ∧ State.reset.link.inReply = none ∧ State.reset.link.waiting = none ∧
    State.reset.link.mask = 0xFFFF ∧ State.reset.link.settings.stampMode = .last ∧
    State.reset.link.settings.lateWindow = 30 ∧ State.reset.link.settings.bellWindow = 20 ∧
    State.reset.link.settings.announceExpiry = 600 ∧ State.reset.link.settings.pageTalk = 120 ∧
    State.reset.link.settings.pageWait = 5 ∧
    ∀ b : Building, State.reset.link.settings.retry[b] = 4 ∧ State.reset.link.settings.bypass[b] = .bypass) ∧
  (∀ c : Cond, condHas State.reset.dev.conds c = decide (c = .coldStart)) ∧ attnLow State.reset = true ∧
  (∀ b : Building, State.reset.dev.bus[b] =
      { rows := [], queue := [], retries := [], wire := .idle, applyPending := false, alarm := false
        drillFast := false, alarmFast := false, heldOut := [], field := [] } ∧
    ∀ addr : Nat, fieldAt State.reset.dev.bus[b] addr =
      { addr := addr, active := 0, staged := 0, latch := .neg, probe := .none, press := none, lamp := .off }) ∧
  (∀ i : LineNo, State.reset.dev.lines[i] = none) ∧
  ((∀ p : PlanNo, State.reset.dev.tt.plans[p] = []) ∧ (∀ i : Fin 7, State.reset.dev.tt.week[i] = .none) ∧
    State.reset.dev.tt.exceptions = [] ∧ State.reset.dev.tt.today = none ∧ State.reset.dev.tt.todayPlan = none ∧
    State.reset.dev.tt.highWater = none) ∧
  ((∀ i : Fin 64, State.reset.dev.ta.zones[i] = { enabled := true, quiet := none }) ∧
    (∀ b : Building, State.reset.dev.ta.rows[b] =
      { holder := .none, map := 0, releasing := false, source := .silent, stage := none, awaited := none
        applied := 0, settling := .settled, fired := false }) ∧
    State.reset.dev.ta.barriers = []) ∧
  ((∀ i : Fin 32, State.reset.dev.rs.patterns[i] = []) ∧ (∀ g : GenNo, State.reset.dev.rs.gens[g] = none) ∧
    (∀ r : RunIx, State.reset.dev.rs.runs[r] = none) ∧ State.reset.dev.rs.waitList = [] ∧
    State.reset.dev.rs.startOrder = [] ∧ State.reset.dev.rs.heldOut = []) ∧
  ((∀ i : Fin 64, State.reset.dev.am.clips[i] = none) ∧ State.reset.dev.am.queue = [] ∧
    State.reset.dev.am.player = .idle ∧ State.reset.dev.am.nextId = 1 ∧ State.reset.dev.am.released = [] ∧
    State.reset.dev.am.finished = [] ∧ State.reset.dev.am.heldOut = [] ∧ State.reset.dev.am.cplay = false ∧
    State.reset.dev.am.select = 0 ∧ State.reset.dev.am.strobe = .none ∧ State.reset.dev.am.startBy = none ∧
    State.reset.dev.am.endBy = none ∧ State.reset.dev.am.stopBy = none) ∧
  (∀ k : PageSlot, pageOf State.reset.dev k =
    { configured := false, zones := 0, urgency := .normal, chimePattern := none, trigger := .level, state := .idle
      started := false, held := 0, chimeGen := none, waitCount := 0, talkCount := 0, lockout := false, released := 0
      seen := false, level := false, since := none, waitOrder := 0 }) ∧
  ((∀ n : Fin 4, State.reset.dev.dc.scripts[n] = none) ∧ State.reset.dev.dc.slot = none ∧
    State.reset.dev.dc.lastResult = .none ∧ State.reset.dev.dc.drill = none ∧
    (∀ b : Building, State.reset.dev.dc.lamps[b] = { wanted := none, outstanding := none, full := false }) ∧
    State.reset.dev.dc.records = [] ∧ State.reset.dev.dc.nextRecord = 1) ∧
  (State.reset.dev.ah.active = false ∧ State.reset.dev.ah.level = false ∧ State.reset.dev.ah.timing = none ∧
    State.reset.dev.ah.hold = false ∧ State.reset.dev.ah.record = none ∧
    ∀ b : Building, State.reset.dev.ah.lamps[b] = { wanted := none, outstanding := none, full := false }) ∧
  (State.reset.tb.clock = 0 ∧ State.reset.link.rxAt = 0 ∧ State.reset.dev.rs.nextOrder = 0 ∧
    State.reset.dev.rs.nextAssign = 0 ∧ State.reset.dev.am.nextOrder = 0 ∧ State.reset.dev.pu.nextWait = 0 ∧
    State.reset.dev.serial = 0 ∧ State.reset.dev.agenda = [] ∧ State.reset.pending = []) ∧
  (State.reset.tb = Timebase.cold ∧ State.reset.link = Link.cold ∧ State.reset.dev.lines = Dev.cold.lines ∧
    State.reset.dev.tt = Timetable.cold ∧ State.reset.dev.ta = Trunks.cold ∧ State.reset.dev.rs = Ring.cold ∧
    State.reset.dev.am = Announcer.cold ∧ State.reset.dev.dc = DrillControl.cold ∧
    ∀ k : PageSlot, pageOf State.reset.dev k = Page.cold)

/-! ## The link (chapter 11) -/

/-- A request that comes with none in reply is taken at once: its owner serves it, and its reply is being sent
(R174, R175). While a request is in reply the next one waits, with its effects to come; TIME SET loads its time as
its frame ends, hands the step of cause SET to TT and LC then, and its result is fixed (R8). A third is discarded
unanswered, and LINK OVERRUN is latched (R8, R174). That TT takes the step before LC is the model's choice (log
entry 8). -/
def Obligations.RequestsAreTakenInTurn : Prop :=
  (∀ (c : Instr) (tag : Nat) (r : Request) (s : State), asRequest c = some (tag, r) → takesAtOnce s = true →
     exec c s =
       .next (replied tag r (serve r (hunting s)).result (serve r (hunting s)).data (serve r (hunting s)).state)) ∧
  (∀ (c : Instr) (tag : Nat) (r : Request) (s : State), asRequest c = some (tag, r) → isRunning s.tb = true →
     s.link.inReply.isSome = true → s.link.waiting = none →
     ((∀ day sec, r ≠ .timeSet day sec) →
       exec c s = .next { s with link := { s.link with
         rx := none, waiting := some { kind := kindOf r, tag := tag, content := .request r } } }) ∧
     (∀ day sec, r = .timeSet day sec →
       (36524 < day ∨ 86399 < sec →
         exec c s = .next { s with link := { s.link with
           rx := none, waiting := some { kind := 16, tag := tag, content := .fixed .range } } }) ∧
       (day ≤ 36524 ∧ sec ≤ 86399 →
         ∀ (new : Stamp) (step : TimeStep), new = { day := day, sec := sec } →
           step = { old := s.tb.time, new := new, cause := .set
                    dateChanged := match s.tb.time with | some t => decide (t.day ≠ day) | none => true } →
           exec c s = .next (settled
             { s with
               tb := { s.tb with
                 time := some new, sub := 0
                 secLen := if sec % 60 = 59 then (32768 + s.tb.trim).toNat else 32768
                 slot := s.tb.slot.filter fun p => decide (day * 86400 + sec < p.day * 86400 + p.stated) }
               link := { s.link with
                 rx := none, waiting := some { kind := 16, tag := tag, content := .fixed .ok } } }
             (pushAll [.stepTT step, .stepLC step] s.dev))))) ∧
  (∀ (c : Instr) (tag : Nat) (r : Request) (s : State), asRequest c = some (tag, r) → isRunning s.tb = true →
     s.link.inReply.isSome = true → s.link.waiting.isSome = true →
     exec c s = .next { s with
       link := { s.link with rx := none }
       dev := { s.dev with conds := s.dev.conds ||| 0x8000 } })

/-- When the last byte of a reply goes out, the waiting request, if any, is taken: its effects and its reply are
fixed then (R174). A waiting frame of an unknown kind is answered UNKNOWN, one whose body is none of its kind's
RANGE (R175), and a waiting TIME SET by the result its frame's end has fixed (R8). -/
def Obligations.ReplySentTakesTheWaitingRequest : Prop :=
  ∀ (s : State) (q : Replying), isRunning s.tb = true → s.link.inReply = some q → q.restart = false →
    (s.link.waiting = none → exec .replySent s = .next { s with link := { s.link with inReply := none } }) ∧
    (∀ (kind tag : Nat) (r : Request), s.link.waiting = some { kind := kind, tag := tag, content := .request r } →
      ∃ a, a = serve r { s with link := { s.link with inReply := none, waiting := none } } ∧
        exec .replySent s = .next { a.state with link := { a.state.link with
          inReply := some
            { kind := kind, tag := tag, result := a.result, data := a.data, restart := r = .restart } } }) ∧
    (∀ (kind tag : Nat) (content : Content) (res : Result),
      (content = .fixed res ∨ (content = .unknownKind ∧ res = .unknown) ∨ (content = .badLength ∧ res = .range)) →
      s.link.waiting = some { kind := kind, tag := tag, content := content } →
      exec .replySent s = .next { s with link := { s.link with
        waiting := none
        inReply := some { kind := kind, tag := tag, result := res, data := [], restart := false } } })

/-- Bytes on the link, in a frame whose last byte came less than 100 ms ago or none: what begins a frame, what
continues it, and which lengths break it. A gap, and a check that does not bring the sum to 0, discard the
frame: LINK ERROR is latched, LP is HUNTING again, and nothing else changes (R173). A byte that comes after the
gap finds the frame discarded, and begins the next one if it is 165 (the model's choice, log entry 36). On
backup, and while a RESTART is in progress, the link takes nothing and sends nothing (R13, R176). -/
def Obligations.BytesMakeAndBreakFrames : Prop :=
  (∀ (s : State) (x : Byte), isRunning s.tb = true → gapPassed s = false →
     (s.link.rx = none →
       (x = 165 →
         exec (.linkByte x) s = .next { s with link := { s.link with rx := some [165], rxAt := s.tb.clock } }) ∧
       (x ≠ 165 → exec (.linkByte x) s = .next s)) ∧
     (s.link.rx = some [165] →
       (x.toNat < 3 ∨ 253 < x.toNat →
         exec (.linkByte x) s = .next { s with
           link := { s.link with rx := none }, dev := { s.dev with conds := s.dev.conds ||| 0x4000 } }) ∧
       (3 ≤ x.toNat ∧ x.toNat ≤ 253 →
         exec (.linkByte x) s =
           .next { s with link := { s.link with rx := some [165, x], rxAt := s.tb.clock } })) ∧
     (∀ (n : Byte) (rest : List Byte), s.link.rx = some (165 :: n :: rest) → rest.length ≠ n.toNat →
       exec (.linkByte x) s =
         .next { s with link := { s.link with rx := some (165 :: n :: rest ++ [x]), rxAt := s.tb.clock } })) ∧
  (∀ (s : State),
     (gapPassed s = true ↔ s.link.rx.isSome = true ∧ 3277 ≤ s.tb.clock - s.link.rxAt) ∧
     (∀ x : Byte, isRunning s.tb = true → gapPassed s = true →
       (x = 165 → exec (.linkByte x) s = .next { s with
         link := { s.link with rx := some [165], rxAt := s.tb.clock }
         dev := { s.dev with conds := s.dev.conds ||| 0x4000 } }) ∧
       (x ≠ 165 → exec (.linkByte x) s = .next { s with
         link := { s.link with rx := none }, dev := { s.dev with conds := s.dev.conds ||| 0x4000 } }))) ∧
  (∀ (s : State) (bytes : List Byte), isRunning s.tb = true → s.link.rx = some bytes →
     exec .byteGap s = .next { s with
       link := { s.link with rx := none }, dev := { s.dev with conds := s.dev.conds ||| 0x4000 } } ∧
     (∀ (n : Byte) (rest : List Byte) (x : Byte), bytes = 165 :: n :: rest → rest.length = n.toNat →
       gapPassed s = false → ((n :: rest ++ [x]).map BitVec.toNat).sum % 256 ≠ 0 →
       exec (.frameEnd x) s = .next { s with
         link := { s.link with rx := none }, dev := { s.dev with conds := s.dev.conds ||| 0x4000 } })) ∧
  (∀ (s : State), isRunning s.tb = false →
     (∀ (c : Instr) (tag : Nat) (r : Request), asRequest c = some (tag, r) → exec c s = .next s) ∧
     (∀ x : Byte, exec (.linkByte x) s = .next s) ∧ exec .byteGap s = .next s ∧
     (∀ x : Byte, exec (.frameEnd x) s = .next s) ∧ exec .replySent s = .next s)

/-- A request's body is read back as the request (R182): no bit of a field is dropped or moved, for every request
whose fields fit their bytes. -/
def Obligations.RequestBodiesReadBack : Prop :=
  ∀ r : Request, requestFits r = true → decodeBody (kindOf r) (encodeBody r) = .request r

/-- The check byte of a request's frame does what the row of that request does: a frame of bytes and its row agree
(R173, R174, R175). With no request in reply it is taken at once, and its reply is being sent. A whole frame of
a kind that no request has is answered UNKNOWN; one of a known kind whose body is the body of no request of that
kind, a length its kind does not allow, is answered RANGE (an optional prefix, or a step code outside its
layout, makes such a body: log entry 9). With a request in reply both wait, and a third frame is lost with LINK
OVERRUN. -/
def Obligations.FrameEndIsItsRequest : Prop :=
  (∀ (c : Instr) (tag : Nat) (r : Request) (s : State), asRequest c = some (tag, r) → requestFits r = true →
    tag < 65536 → isRunning s.tb = true → gapPassed s = false →
    ∀ body : List Byte,
      body = BitVec.ofNat 8 (kindOf r) :: BitVec.ofNat 8 (tag / 256) :: BitVec.ofNat 8 tag :: encodeBody r →
      s.link.rx = some (165 :: BitVec.ofNat 8 body.length :: body) →
      exec (.frameEnd (checkOf (BitVec.ofNat 8 body.length :: body))) s = exec c s) ∧
  (∀ (kind tag : Nat) (l : List Byte) (s : State), kind < 256 → tag < 65536 → l.length ≤ 250 → isRunning s.tb = true →
     gapPassed s = false → ∀ body : List Byte,
     body = BitVec.ofNat 8 kind :: BitVec.ofNat 8 (tag / 256) :: BitVec.ofNat 8 tag :: l →
     s.link.rx = some (165 :: BitVec.ofNat 8 body.length :: body) →
     let check : Byte := checkOf (BitVec.ofNat 8 body.length :: body)
     let answered (res : Result) : Prop := exec (.frameEnd check) s = .next { s with link := { s.link with
       rx := none, inReply := some { kind := kind, tag := tag, result := res, data := [], restart := false } } }
     let held (content : Content) : Prop := exec (.frameEnd check) s = .next { s with link := { s.link with
       rx := none, waiting := some { kind := kind, tag := tag, content := content } } }
     (s.link.inReply = none →
       (∀ r : Request, kindOf r = kind → requestFits r = true → encodeBody r = l → exec (.frameEnd check) s =
         .next (replied tag r (serve r (hunting s)).result (serve r (hunting s)).data (serve r (hunting s)).state)) ∧
       ((∀ r : Request, kindOf r ≠ kind) → answered .unknown) ∧
       ((∃ r : Request, kindOf r = kind) →
         (∀ r : Request, kindOf r = kind → requestFits r = true → encodeBody r ≠ l) → answered .range)) ∧
     (s.link.inReply.isSome = true → s.link.waiting = none →
       ((∀ r : Request, kindOf r ≠ kind) → held .unknownKind) ∧
       ((∃ r : Request, kindOf r = kind) →
         (∀ r : Request, kindOf r = kind → requestFits r = true → encodeBody r ≠ l) → held .badLength)) ∧
     (s.link.inReply.isSome = true → s.link.waiting.isSome = true → exec (.frameEnd check) s = .next { s with
       link := { s.link with rx := none }, dev := { s.dev with conds := s.dev.conds ||| 0x8000 } }))

/-- Requests that only read (R27, R63, R67, R70, R71, R101, R103, R118, R133, R136, R177, R180): a number beyond the
table's last is RANGE; otherwise the request is answered OK with what stands there, and nothing changes. The
bytes of each such reply, and of DRILL RECORD GET (R160), follow: the formats of R182, then every field in its
rule's order. RUN LIST and QUEUE LIST give as many whole slots or requests as the body of 250 bytes holds beside
their other fields. The places that R182 leaves open are the model's choice: the read flag, the phase of the
active drill, the open barrier of TRUNK STATUS, the flags of an entry and the outcome of a run (log entry 9); a
drill's activation count, the numbering of a generator's steps, from 0, and 0 while ARMED (log entry 41); the
deadline time across the calendar's end (log entry 44); the order of the ids in use by released sets (log
entry 55); and in TRUNK STATUS each map of the building as one byte and a stage's owner as one code (log entry 9). -/
def Obligations.ReadsChangeNothing : Prop :=
  (∀ (tag : Nat) (s : State), takesAtOnce s = true →
     exec (.status tag) s = .next (replied tag .status .ok (statusData s) s) ∧
     exec (.settingsGet tag) s = .next (replied tag .settingsGet .ok (settingsData s.link.settings) s)) ∧
  (∀ (tag n : Nat) (s : State), takesAtOnce s = true →
     (∀ b : Building, b.1 = n →
       exec (.stationStatus tag n) s = .next (replied tag (.stationStatus n) .ok (stationStatusData s.dev.bus[b]) s) ∧
       exec (.trunkStatus tag n) s = .next (replied tag (.trunkStatus n) .ok (trunkStatusData s.dev b) s)) ∧
     (7 < n →
       exec (.stationStatus tag n) s = .next (replied tag (.stationStatus n) .range [] s) ∧
       exec (.trunkStatus tag n) s = .next (replied tag (.trunkStatus n) .range [] s)) ∧
     (∀ i : LineNo, i.1 = n → exec (.lineStatus tag n) s =
       .next (replied tag (.lineStatus n) .ok (lineStatusData s.tb.time s.dev.lines[i]) s)) ∧
     (15 < n → exec (.lineStatus tag n) s = .next (replied tag (.lineStatus n) .range [] s)) ∧
     (∀ i : Fin 32, i.1 + 1 = n → exec (.patternGet tag n) s =
       .next (replied tag (.patternGet n) .ok (patternGetData s.dev.rs.patterns[i]) s)) ∧
     (n = 0 ∨ 32 < n → exec (.patternGet tag n) s = .next (replied tag (.patternGet n) .range [] s)) ∧
     (1 ≤ n ∧ n ≤ 12 →
       exec (.runList tag n) s = .next (replied tag (.runList n) .ok (runListData s.tb.clock s.dev n) s)) ∧
     (n = 0 ∨ 12 < n → exec (.runList tag n) s = .next (replied tag (.runList n) .range [] s))) ∧
  (∀ (tag n m : Nat) (s : State), takesAtOnce s = true →
     (∀ p : PlanNo, p.1 = n →
       exec (.entryList tag n m) s = .next (replied tag (.entryList n m) .ok (entryListData s.dev p m) s)) ∧
     (15 < n → exec (.entryList tag n m) s = .next (replied tag (.entryList n m) .range [] s)) ∧
     exec (.exceptionList tag n) s =
       .next (replied tag (.exceptionList n) .ok (exceptionListData s.dev.tt.exceptions n) s) ∧
     (n ≤ 36524 → exec (.dayQuery tag n) s = .next (replied tag (.dayQuery n) .ok (dayQueryData s.dev n) s)) ∧
     (36524 < n → exec (.dayQuery tag n) s = .next (replied tag (.dayQuery n) .range [] s)) ∧
     exec (.queueList tag n) s = .next (replied tag (.queueList n) .ok (queueListData s.dev n) s) ∧
     exec (.finishedList tag) s = .next (replied tag .finishedList .ok (finishedListData s.dev) s)) ∧
  (∀ n : Nat, (n < 65536 → num2 n = [BitVec.ofNat 8 (n / 256), BitVec.ofNat 8 n]) ∧
     (n < 256 → num1 n = [BitVec.ofNat 8 n]) ∧ code n = [BitVec.ofNat 8 n] ∧
     timeOfDay n = [BitVec.ofNat 8 (n / 65536), BitVec.ofNat 8 (n / 256), BitVec.ofNat 8 n]) ∧
  (∀ t : Stamp, stamp t = [BitVec.ofNat 8 (t.day / 256), BitVec.ofNat 8 t.day] ++ timeOfDay t.sec ∧
     stampOrAbsent (some t) = stamp t) ∧ stampOrAbsent none = [255, 255, 0, 0, 0] ∧
  (∀ z : ZoneSet, (zoneBytes z).length = 8 ∧ ∀ b : Building, (zoneBytes z)[b.1]? = some (zoneMap z b)) ∧
  (∀ c : CondSet, ∃ x y, condBytes c = [x, y] ∧
     ∀ n < 8, x.getLsbD n = c.getLsbD (n + 8) ∧ y.getLsbD n = c.getLsbD n) ∧
  (∀ (f : Nat → List Byte) (n : Nat), optional f (some n) = 1 :: f n ∧ optional f none = [0]) ∧
  yesNo true = [0] ∧ yesNo false = [1] ∧
  (∀ s : State,
     let d := s.dev
     let bit (v : Bool) (n : Nat) : Nat := if v then n else 0
     let page (p : Page) : Nat := [PageState.idle, .waiting, .chime, .opened].idxOf p.state
     statusData s = condBytes d.conds ++ condBytes s.link.mask ++
       code (bit (attnLow s) 1 + bit s.tb.time.isSome 2 + bit (s.tb.supply = .main) 4 + bit d.ah.hold 8 +
         bit d.ah.active 16 + bit d.dc.slot.isSome 32) ++
       stampOrAbsent s.tb.time ++
       code (match d.dc.drill with
         | none => 0
         | some x => 1 + [DrillPhase.pre, .evac, .muster, .allClear].idxOf x.phase) ++
       num1 ((d.bus.toList.map fun x => x.rows.length).sum) ++ num1 (d.lines.toList.filter fun x => x.isSome).length ++
       num2 d.tt.plans.toList.flatten.length ++ num1 d.tt.exceptions.length ++
       num1 (d.rs.runs.toList.filter fun x => x.any fun y => y.state != .done).length ++ num1 d.rs.waitList.length ++
       num1 (d.rs.gens.toList.filter fun x => x.isSome).length ++ num1 d.am.queue.length ++
       num1 d.am.finished.length ++ num1 d.dc.records.length ++
       num1 (d.ta.rows.toList.filter fun x => x.holder != .none).length ++
       code (page d.pu.a + 16 * page d.pu.b) ++ d.bus.toList.flatMap fun x => num1 x.queue.length) ∧
  (∀ bus : Bus,
     let moved (t : Transaction) : List Byte := 1 :: (match t.what with
       | .command c => code (match c.op with
         | .stage _ => 0 | .mute => 1 | .impulse _ _ => 2 | .probe => 3 | .lamp _ => 4)
       | .poll _ => code 5) ++ num2 t.addr
     stationStatusData bus =
       (bus.rows.flatMap fun r => num2 r.addr ++
         code ([StationKind.zoneSwitch, .lineDriver, .marshalPanel].idxOf r.kind) ++
         code ([StationState.unknown, .online, .offline].idxOf r.state) ++ num2 r.fails ++ stampOrAbsent r.lastHeard) ++
       code (if bus.alarm then 1 else 0) ++ num2 bus.queue.length ++
       (match bus.wire, bus.retries with
       | .attempt t, _ => moved t
       | .applyMark, _ => [1] ++ code 6 ++ num2 31
       | .idle, t :: _ => moved t
       | .idle, [] => [0]) ++ yesNo bus.applyPending) ∧
  (∀ now : Option Stamp, lineStatusData now none = yesNo false ∧ ∀ l : Line,
     let pol (p : Option Polarity) : List Byte := optional (fun q => code ([Polarity.pos, .neg].idxOf q)) p
     let tgt : Option Nat := match now, l.pos with
       | some t, some _ => some (t.sec / 60 % l.span)
       | _, _ => none
     let gap : Option Nat := match tgt, l.pos with
       | some t, some p => some ((t + l.span - p) % l.span)
       | _, _ => none
     lineStatusData now (some l) = yesNo true ++ num2 l.building.1 ++ num2 l.addr ++ num2 l.span ++ num2 l.hold ++
       num2 l.catchUp ++ num2 l.width ++ yesNo l.enabled ++
       code ([LineState.disabled, .unset, .offline, .probe, .fault, .noTime, .run, .hold, .advance].idxOf l.state) ++
       optional num2 l.pos ++ optional num2 l.setPos ++ pol l.pol ++ num2 l.counter.toNat ++ optional num2 tgt ++
       optional num2 gap ++ optional num2 (if l.state = .hold then gap.map fun g => l.span - g else none) ++
       pol l.inFlight ++ num2 l.pace ++
       (match l.fault with
       | none => code 0
       | some c => code 1 ++ code ([FaultCause.impulseShort, .probeOpen, .probeShort].idxOf c)) ++
       (match l.probe with
       | none => [0]
       | some (o, st) => 1 :: code ([ProbeOrigin.host, .fault].idxOf o) ++
           code ([ProbeStage.pending, .sent, .reading].idxOf st)) ++
       (match l.lastProbe with
       | .none => code 0 | .ok n => code 1 ++ num2 n | .lineOpen => code 2 | .short => code 3) ++
       stampOrAbsent l.lastProbeAt ++ code ([DriverView.online, .unknown, .offline, .absent].idxOf l.view) ++
       pol l.latch) ∧
  (∀ (d : Dev) (b : Building),
     let row := d.ta.rows[b]
     let src (x : Source) : List Byte := code (match x with
       | .silent => 0 | .tg g => 1 + g.1 | .player => 5 | .mic .a => 6 | .mic .b => 7)
     trunkStatusData d b =
       (match rowOfKind d.bus[b] .zoneSwitch with
       | some r => yesNo true ++ code ([StationState.unknown, .online, .offline].idxOf r.state)
       | none => yesNo false) ++
       (match row.holder with
       | .none => code 0 ++ [0]
       | .alarm => code 6 ++ [1, 0]
       | .claimant c p =>
         (match c with
         | .ring r => code 1 ++ num2 (r.1 + 1) | .announce id => code 2 ++ num2 id
         | .page .a => code 3 | .page .b => code 4 | .drill => code 5) ++
         1 :: code (1 + [ClaimPrio.drill, .urgent, .ring, .normal].idxOf p)) ++
       [row.map] ++ yesNo row.releasing ++ src row.source ++
       (match row.stage with
       | none => [0]
       | some st => 1 :: [st.map] ++ code (if st.owner.isSome then 0 else 1) ++
         code (match st.phase with | .placing => 0 | .queued _ => 1 | .confirmed => 2)) ++
       (match row.awaited with | none => [0] | some w => 1 :: [w.map]) ++ [row.applied] ++
       code (match row.settling with | .settled => 0 | .awaiting => 1 | .muting _ => 2) ++
       (match row.holder with
       | .claimant c _ => match d.ta.barriers.find? fun x => x.claimant == c with
         | some x => 1 :: src x.source
         | none => [0]
       | _ => [0]) ++
       (List.finRange 8).flatMap fun z =>
         yesNo (d.ta.zones[zoneIndex b z]).enabled ++ stampOrAbsent (d.ta.zones[zoneIndex b z]).quiet) ∧
  (∀ (clock first : Nat) (d : Dev),
     let gen (x : Option GenUse) : List Byte := match x with
       | none => code 0
       | some u => code 1 ++ (match u.user with
           | .run r => code 0 ++ num2 (r.1 + 1) | .chime .a => code 1 ++ code 0 | .chime .b => code 1 ++ code 1
           | .drill => code 2) ++
         code (match u.phase with | .armed => 0 | .sounding => 1 | .ended => 2) ++ num2 (genStep clock u)
     let ref (r : EntryRef) : List Byte := num2 r.plan.1 ++ num2 r.slot ++ stamp r.pass
     let building (x : Option RunBuilding) : List Byte := match x with
       | none => []
       | some .claiming => code 0 | some .waiting => code 1 | some .granted => code 2 | some .staged => code 3
       | some .playing => code 4 | some .done => code 5
       | some (.dropped q) => code 6 ++ code ([DropReason.drill, .alarm, .failed, .quiet, .disabled, .held, .notStarted,
           .preempted, .stopped, .generatorTaken, .aborted, .power, .noGenerator].idxOf q)
     let late (window : Nat) (t : Stamp) : Stamp :=
       let n := (t.day * 86400 + t.sec + window) % (36525 * 86400)
       { day := n / 86400, sec := n % 86400 }
     let run (x : Option Run) : List Byte := match x with
       | none => code 0
       | some y => code (1 + [RunState.claiming, .genWait, .staging, .playing, .done].idxOf y.state) ++
         (match y.origin with | .entry r => code 0 ++ ref r | .ringNow => code 1) ++ num2 y.pattern ++
         zoneBytes y.zones ++ stampOrAbsent y.due ++ num2 y.count ++ stampOrAbsent (y.due.map (late y.window)) ++
         (buildings.flatMap fun b => building y.at_[b]) ++ optional (fun g : GenNo => code g.1) y.gen ++
         match y.ending, y.outcome with
         | some q, some o => code ([RunEnding.finished, .nothingGranted, .deadline, .waitListFull, .allLost,
               .generatorTaken, .stopped, .aborted, .abortedPower].idxOf q) ++
             code ([RingOutcome.rung, .partly, .missed, .suppressed].idxOf o) ++ stampOrAbsent y.endTime ++ [y.released]
         | _, _ => []
     let tail := d.rs.gens.toList.flatMap gen ++ (d.rs.waitList.flatMap fun r => num2 (r.1 + 1)) ++
       (d.rs.startOrder.flatMap fun r => num2 (r.1 + 1))
     let items := (d.rs.runs.toList.drop (first - 1)).map run
     ∃ k, runListData clock d first = num2 k ++ (items.take k).flatten ++ tail ∧ k ≤ items.length ∧
       (items.take k).flatten.length ≤ 247 - tail.length ∧
       (k < items.length → 247 - tail.length < (items.take (k + 1)).flatten.length)) ∧
  (∀ (clock k : Nat) (u : GenUse),
     let ends (j : Nat) : Nat := Config.msTicks (((u.steps.take j).map fun x => match x with
       | .tone _ n => n | .gap n => n).sum * 100)
     (u.phase = .armed → genStep clock u = 0) ∧
     (u.phase ≠ .armed → k < u.steps.length → ends k ≤ clock - u.since →
       clock - u.since < ends (k + 1) ∨ k + 1 = u.steps.length → genStep clock u = k)) ∧
  (∀ (start : Nat) (d : Dev),
     let origin (x : ReqOrigin) : List Byte := match x with
       | .host => code 0 | .entry r => code 1 ++ num2 r.plan.1 ++ num2 r.slot ++ stamp r.pass | .drill => code 2
     let prio (p : ReqPrio) : List Byte := code ([ReqPrio.normal, .urgent, .drill].idxOf p)
     let request (r : AnnounceReq) : List Byte := num2 r.id ++ origin r.origin ++ num2 r.clip ++ num2 r.length ++
       zoneBytes r.zones ++ prio r.prio ++ stampOrAbsent r.notBefore ++ yesNo r.eligible ++ num2 r.count ++
       code (if r.playing then 1 else 0)
     let building (x : Option ReqBuilding) : List Byte := match x with
       | none => []
       | some .granted => code 0 | some .playing => code 1 | some .lostPreempted => code 2 ++ code 0
       | some .lostFailed => code 2 ++ code 1 | some .outQuiet => code 3 ++ code 0
       | some .outDisabled => code 3 ++ code 1 | some .outFailed => code 3 ++ code 2
     let head :=
       code ([PlayerState.idle, .staging, .starting, .playing, .stopping].idxOf d.am.player) ++ num2 d.am.nextId
     let tail := (match d.am.queue.find? fun r => r.playing with
       | some r => buildings.flatMap fun b => building r.at_[b]
       | none => []) ++ d.am.released.flatMap fun p => num2 p.1 ++ [p.2]
     let items := (d.am.queue.drop start).map request
     (∃ k, queueListData d start = head ++ num2 k ++ (items.take k).flatten ++ tail ∧ k ≤ items.length ∧
       (items.take k).flatten.length ≤ 244 - tail.length ∧
       (k < items.length → 244 - tail.length < (items.take (k + 1)).flatten.length)) ∧
     finishedListData d = d.am.finished.reverse.flatMap fun f => num2 f.id ++ origin f.origin ++ num2 f.clip ++
       prio f.prio ++ code ([ReqOutcome.delivered, .partly, .failed, .timeout, .preempted, .expired, .suppressed,
         .cancelled, .displaced, .alarm, .power, .aborted].idxOf f.outcome) ++
       [f.delivered] ++ stampOrAbsent f.endTime) ∧
  (∀ (d : Dev) (p : PlanNo) (n : Nat),
     let flags (x : Entry) : Nat :=
       (match x.kind with | .ring _ => 0 | .clip _ .normal => 128 | .clip _ .urgent => 192) +
       (match x.day with
       | none => 0
       | some m => 32 + (if m.late then 16 else 0) +
         [Mark.pending, .sent, .rung, .late, .partly, .missed, .suppressed, .queuedClip].idxOf m.mark)
     let other (x : PlanRef) (silent none : Nat) : List Byte := num2 (match x with
       | .plan q => q.1 | .silent => silent | .none => none)
     let used := d.tt.plans.toList.flatten.map fun x => x.slot
     entryListData d p n = num1 (d.tt.plans[p]).length ++
       num2 ((List.range 384).filter fun q => !used.contains q).length ++ num1 n ++
       (((d.tt.plans[p]).drop n).take 16).flatMap (fun x => num2 x.slot ++ timeOfDay x.time ++ code (flags x) ++
         num1 (match x.kind with | .ring m => m | .clip m _ => m) ++ zoneBytes x.zones) ∧
     exceptionListData d.tt.exceptions n = num2 d.tt.exceptions.length ++
       ((d.tt.exceptions.drop n).take 20).flatMap (fun r => num2 r.first ++ num2 r.last ++ other r.plan 65535 65535) ∧
     dayQueryData d n = num2 ((n + 5) % 7) ++ other (resolve d n) 65535 65534 ++
       (match d.tt.exceptions.find? fun r => r.first ≤ n && n ≤ r.last with
       | some r => code 0 ++ num2 r.first
       | none => code 1) ++
       d.tt.week.toList.flatMap (fun r => other r 65535 65535) ++
       (match if d.tt.today = some n then d.tt.todayPlan else none with
       | some r => 1 :: other r 65535 65534
       | none => [0])) ∧
  (∀ steps : List PStep, patternGetData steps =
     steps.flatMap (fun x => match x with | .tone t n => code 0 ++ num2 t ++ num2 n | .gap n => code 1 ++ num2 n) ++
     num2 (steps.map fun x => match x with | .tone _ n => n | .gap n => n).sum) ∧
  (∀ x : Settings, settingsData x = num2 x.lateWindow ++ num2 x.bellWindow ++ num2 x.announceExpiry ++
     num2 x.pageTalk ++ num2 x.pageWait ++ x.retry.toList.flatMap num2 ++
     (x.bypass.toList.flatMap fun m => code ([BypassMode.bypass, .inOrder].idxOf m)) ++
     code ([StampMode.first, .last].idxOf x.stampMode)) ∧
  (∀ (d : Dev) (r : Record), drillRecordData d r = num2 r.number ++
     (match r.kind with | .drill n => code 0 ++ code n.1 | .alarm => code 1 ++ code 255) ++
     [r.buildings] ++ stampOrAbsent r.start ++ stampOrAbsent r.evacStart ++
     (r.at_.toList.flatMap fun x => stampOrAbsent x.mute ++ stampOrAbsent x.clear ++
       (match x.elapsed with
       | some n => num (if n < 65535 then n else Config.wideNumber n)
       | none => [255, 255])) ++
     num1 r.activations ++ stampOrAbsent r.lastActivation ++ stampOrAbsent r.lineQuiet ++ stampOrAbsent r.endTime ++
     code (match r.outcome with
       | none => 0
       | some o => 1 + [RecordOutcome.complete, .timeout, .aborted, .abortedPower, .alarmOverride, .resumed].idxOf o) ++
     code (if r.read then 1 else 0) ++
     (match d.dc.drill with
     | none => [0]
     | some x => 1 :: code ([DrillPhase.pre, .evac, .muster, .allClear].idxOf x.phase) ++ num2 x.count ++
         (bsList x.buildings).flatMap fun b =>
           code ([TrunkState.none, .claiming, .granted, .sounding, .excluded, .released].idxOf x.at_[b])) ++
     (match d.dc.slot with
     | none => [0]
     | some p => 1 :: num2 p.script.1 ++ [p.buildings] ++ stamp p.moment) ++
     match d.dc.lastResult with
     | .none => code 0
     | .started n => code 1 ++ num2 n
     | .notStarted q => code 2 ++ code ([NotStarted.alarm, .active, .notFound, .outage].idxOf q))

/-- CONDITIONS CLEAR takes every named condition out of the set, and no other; and a condition stays in the set
whatever the other commands do, but for a COLD start (R178). The commands left out of the second part are those
that may carry a CONDITIONS CLEAR: the bytes and the reply that can let one be taken. -/
def Obligations.ConditionsLeaveOnlyByClear : Prop :=
  (∀ (tag : Nat) (c : CondSet) (s : State), takesAtOnce s = true →
     ∃ d, exec (.conditionsClear tag c) s = .next (replied tag (.conditionsClear c) .ok [] { s with dev := d }) ∧
       d = { s.dev with conds := d.conds } ∧
       ∀ n : Nat, d.conds.getLsbD n = (s.dev.conds.getLsbD n && !c.getLsbD n)) ∧
  (∀ (c : Instr) (s t : State), exec c s = .next t → c ≠ .coldStart → (∀ tag x, c ≠ .conditionsClear tag x) →
     (∀ x, c ≠ .linkByte x) → (∀ x, c ≠ .frameEnd x) → c ≠ .replySent →
     ∀ n : Nat, s.dev.conds.getLsbD n = true → t.dev.conds.getLsbD n = true)

/-- ATTENTION SET and ATTN (R179): the set replaces the mask, and ATTN is low while a condition is in both the set and
the mask, except on backup; so every latch, clear, mask and RESTORE shows at once, and after a COLD start ATTN is low.
The device runs, or is on backup, with its retained state valid. -/
def Obligations.AttentionSetAndAttn : Prop :=
  (∀ (tag : Nat) (c : CondSet) (s : State), takesAtOnce s = true →
    exec (.attentionSet tag c) s =
      .next (replied tag (.attentionSet c) .ok [] { s with link := { s.link with mask := c } })) ∧
  (∀ s : State, s.tb.retained = true →
    (attnLow s = true ↔
      s.tb.supply = .main ∧ ∃ n, s.dev.conds.getLsbD n = true ∧ s.link.mask.getLsbD n = true)) ∧
  (∀ s : State, s.tb.retained = false → s.tb.vmain = true →
    ∃ t, exec .coldStart s = .next t ∧ attnLow t = true ∧ condHas t.dev.conds .coldStart = true ∧ t.link.mask = 0xFFFF)

/-- SETTINGS SET: RANGE with the record unchanged, or OK with every field taken together (R177), after which every
idle bus chooses again, since a bypass mode may let a due poll go (R32; the model's choice, log entry 36), and
nothing else changes. -/
def Obligations.SettingsSetTakesAllOrNothing : Prop :=
  ∀ (tag : Nat) (x : SettingsArg) (s : State), takesAtOnce s = true →
    let good : Prop :=
      x.lateWindow ≤ 300 ∧ x.bellWindow ≤ 60 ∧ (10 ≤ x.announceExpiry ∧ x.announceExpiry ≤ 3600) ∧
        (10 ≤ x.pageTalk ∧ x.pageTalk ≤ 300) ∧ (1 ≤ x.pageWait ∧ x.pageWait ≤ 30) ∧
        (∀ b : Building, 1 ≤ x.retry[b] ∧ x.retry[b] ≤ 15 ∧ x.bypass[b] ≤ 1) ∧ x.stampMode ≤ 1
    (¬good → exec (.settingsSet tag x) s = .next (replied tag (.settingsSet x) .range [] s)) ∧
    (good → ∃ taken : Settings,
      exec (.settingsSet tag x) s = .next (replied tag (.settingsSet x) .ok []
        (settled { s with link := { s.link with settings := taken } }
          (pushAll ((List.finRange 8).map fun b => Msg.busStart b) s.dev))) ∧
      taken = { lateWindow := x.lateWindow, bellWindow := x.bellWindow, announceExpiry := x.announceExpiry
                pageTalk := x.pageTalk, pageWait := x.pageWait, retry := x.retry
                bypass := x.bypass.map fun n => if n = 0 then .bypass else .inOrder
                stampMode := if x.stampMode = 0 then .first else .last })

/-- RESTART by request (R181): it carries no fields and is answered OK with nothing yet changed; the RESTART is taken
when the last byte of that reply goes out, when no request is held any more but one that waits, which is given up with
LINK OVERRUN (R176). -/
def Obligations.RestartByRequest : Prop :=
  encodeBody .restart = [] ∧ decodeBody 181 [] = .request .restart ∧
  (∀ (tag : Nat) (s : State), takesAtOnce s = true →
    exec (.restart tag) s = .next (replied tag .restart .ok [] s)) ∧
  (∀ (s : State) (q : Replying), isRunning s.tb = true → s.link.inReply = some q → q.restart = true →
    exec .replySent s =
      .next (endRestart (beginRestart { s with link := { s.link with inReply := none } })) ∧
    ∃ t, exec .replySent s = .next t ∧ t.link = { s.link with rx := none, inReply := none, waiting := none } ∧
      t.tb = s.tb ∧ (s.link.waiting.isSome = true → condHas t.dev.conds .linkOverrun = true))

/-! ## Time and supply (chapter 1) -/

/-- TIME SET (R8): RANGE with nothing changed, or the new time loaded with its first second of full length, a passed
plan given up, and the step of cause SET handed to TT and LC. That TT takes the step, with all it brings about,
before LC is the model's choice (log entries 8 and 7). -/
def Obligations.TimeSetLoadsTheTime : Prop :=
  ∀ (tag day sec : Nat) (s : State), takesAtOnce s = true →
    (36524 < day ∨ 86399 < sec →
      exec (.timeSet tag day sec) s = .next (replied tag (.timeSet day sec) .range [] s)) ∧
    (day ≤ 36524 ∧ sec ≤ 86399 →
      ∀ (new : Stamp) (step : TimeStep), new = { day := day, sec := sec } →
        step = { old := s.tb.time, new := new, cause := .set
                 dateChanged := match s.tb.time with | some t => decide (t.day ≠ day) | none => true } →
        exec (.timeSet tag day sec) s = .next (replied tag (.timeSet day sec) .ok []
          (settled
            { s with tb := { s.tb with
                time := some new, sub := 0
                secLen := if sec % 60 = 59 then (32768 + s.tb.trim).toNat else 32768
                slot := s.tb.slot.filter fun p => decide (day * 86400 + sec < p.day * 86400 + p.stated) } }
            (pushAll [.stepTT step, .stepLC step] s.dev))))

/-- TIME GET (R9), with the sending of its fields (R182; log entry 9), and the plan that a TIME SET has passed.
STAMP GET and STAMP CLEAR (R16), a COLD start, and RESTART; the sending of the fields is that of R182 as log
entry 9 reads it. -/
def Obligations.TimeAndStampAreReported : Prop :=
  (∀ (tag : Nat) (s : State), takesAtOnce s = true →
    exec (.timeGet tag) s = .next (replied tag .timeGet .ok
      (code (if s.tb.time.isSome then 0 else 1) ++ stampOrAbsent s.tb.time ++
        optional (fun t : Stamp => num2 ((t.day + 5) % 7)) s.tb.time ++ signed s.tb.trim ++
        optional (fun p : ShiftPlan => num2 p.day ++ timeOfDay p.stated ++ signed p.shift) s.tb.slot) s)) ∧
  (∀ (tag day sec : Nat) (s t : State) (p : ShiftPlan), takesAtOnce s = true → day ≤ 36524 → sec ≤ 86399 →
    s.tb.slot = some p → p.day * 86400 + p.stated ≤ day * 86400 + sec → exec (.timeSet tag day sec) s = .next t →
    t.tb.slot = none) ∧
  (∀ (tag : Nat) (s : State), takesAtOnce s = true →
    exec (.stampGet tag) s = .next (replied tag .stampGet .ok
      (num2 s.tb.stampCount ++ stampOrAbsent s.tb.stampStart ++ stampOrAbsent s.tb.stampEnd ++
        code (if s.link.settings.stampMode = .first then 0 else 1)) s) ∧
    exec (.stampClear tag) s = .next (replied tag .stampClear .ok []
      { s with tb := { s.tb with stampCount := 0, stampStart := none, stampEnd := none } })) ∧
  (∀ s t : State, s.tb.retained = false → s.tb.vmain = true → exec .coldStart s = .next t →
    t.tb.stampCount = 0 ∧ t.tb.stampStart = none ∧ t.tb.stampEnd = none) ∧
  (∀ s t : State, exec .resetnAssert s = .next t ∨ exec .resetnRelease s = .next t →
    t.tb.stampCount = s.tb.stampCount ∧ t.tb.stampStart = s.tb.stampStart ∧ t.tb.stampEnd = s.tb.stampEnd ∧
      t.link.settings.stampMode = s.link.settings.stampMode)

/-- TRIM SET (R4): RANGE outside −200 to +200; otherwise the new trim is held and the second in progress keeps its
length; and however many seconds end then one after another, the trim stays held, and each second that begins has its
length from its own label and that trim. -/
def Obligations.TrimSetGovernsTheNextSecond : Prop :=
  ∀ (tag : Nat) (trim : Int) (s : State), takesAtOnce s = true →
    (trim < -200 ∨ 200 < trim → exec (.trimSet tag trim) s = .next (replied tag (.trimSet trim) .range [] s)) ∧
    (-200 ≤ trim ∧ trim ≤ 200 →
      ∃ t, t = replied tag (.trimSet trim) .ok [] { s with tb := { s.tb with trim := trim } } ∧
        exec (.trimSet tag trim) s = .next t ∧ t.tb.secLen = s.tb.secLen ∧
        ∀ u : Nat → State, u 0 = t → (∀ k, exec .secondEnd (u k) = .next (u (k + 1))) → ∀ k,
          (u (k + 1)).tb.trim = trim ∧
          ((u (k + 1)).tb.secLen : Int) =
            (match (u (k + 1)).tb.time with
             | some x => if x.sec % 60 = 59 then 32768 + trim else 32768
             | none => 32768))

/-- SHIFT PLAN (R10): NOTIME while time is INVALID, RANGE with the slot as it was, or OK with the new plan in the
slot. -/
def Obligations.ShiftPlanFillsTheSlot : Prop :=
  ∀ (tag day stated : Nat) (shift : Int) (s : State), takesAtOnce s = true →
    (s.tb.time = none →
      exec (.shiftPlan tag day stated shift) s = .next (replied tag (.shiftPlan day stated shift) .noTime [] s)) ∧
    (∀ now, s.tb.time = some now →
      let bad : Prop :=
        36524 < day ∨ (stated < 1 ∨ 86399 < stated) ∨ (shift = 0 ∨ shift % 60 ≠ 0 ∨ shift < -7200 ∨ 7200 < shift) ∨
          ((stated : Int) + shift < 0 ∨ 86399 < (stated : Int) + shift) ∨
          day * 86400 + stated ≤ now.day * 86400 + now.sec
      (bad →
        exec (.shiftPlan tag day stated shift) s = .next (replied tag (.shiftPlan day stated shift) .range [] s)) ∧
      (¬bad →
        exec (.shiftPlan tag day stated shift) s = .next (replied tag (.shiftPlan day stated shift) .ok []
          { s with tb := { s.tb with slot := some { day := day, stated := stated, shift := shift } } })))

/-- SHIFT CANCEL empties the slot (R11), and what else empties or keeps it: an applied shift, a TIME SET that passes
it, a COLD start, RESTART, entry to backup and RESTORE. -/
def Obligations.ShiftCancelEmptiesTheSlot : Prop :=
  (∀ (tag : Nat) (s : State), takesAtOnce s = true →
    exec (.shiftCancel tag) s =
      .next (replied tag .shiftCancel .ok [] { s with tb := { s.tb with slot := none } })) ∧
  (∀ s t : State, (shiftDue s.tb).isSome = true → s.tb.retained = true → exec .secondEnd s = .next t →
    t.tb.slot = none) ∧
  (∀ (tag day sec : Nat) (s t : State) (p : ShiftPlan), isRunning s.tb = true →
    (s.link.inReply = none ∨ s.link.waiting = none) → day ≤ 36524 → sec ≤ 86399 → s.tb.slot = some p →
    p.day * 86400 + p.stated ≤ day * 86400 + sec → exec (.timeSet tag day sec) s = .next t → t.tb.slot = none) ∧
  (∀ s t : State, s.tb.retained = false → s.tb.vmain = true → exec .coldStart s = .next t → t.tb.slot = none) ∧
  (∀ (s t : State) (taken : BuildingSet),
    exec .resetnAssert s = .next t ∨ exec .resetnRelease s = .next t ∨ exec (.entryToBackup taken) s = .next t ∨
      exec .restore s = .next t → t.tb.slot = s.tb.slot) ∧
  (∀ (s t : State) (q : Replying), isRunning s.tb = true → s.link.inReply = some q → q.restart = true →
    exec .replySent s = .next t → t.tb.slot = s.tb.slot)

/-- The end of a second (R3, R5, R6): campus time advances by counting, and while the device runs the second event
goes to every block; on backup and in a RESTART none does. Where the planned shift applies (R12), campus time
becomes the stated second plus the shift, the slot empties, SHIFT APPLIED is latched, and the step goes inside
the second event, which has no minute mark; on backup and in a RESTART the blocks hear of it later. The true
time of the tick at which the second ends, and that SHIFT_APPLY has no effect at any other second, are the
model's (log entries 3 and 4). The second event is handed to the blocks as one part each: the quiets, TT, LC and
its lines, TA, DC, RS and its claims, AM and its scan, PU and its claims, AH (R5); each part, and each notice,
outcome and report that the blocks hand one another, is taken by the block and the function named. The order of
the parts, and that a message and all it brings about come before the next, is the model's choice (log entries 7
and 8), and so is that the lines are taken by ascending number (log entry 39), that a panel's lamp is taken
before its press (log entry 48), and that the PREEMPTED notices of a claim are taken one after another before
what any brings about (log entry 23). -/
def Obligations.SecondsEndAndShiftsApply : Prop :=
  (∀ (s : State) (new : Option Stamp) (tb : Timebase), s.tb.retained = true → shiftDue s.tb = none →
     new = s.tb.time.map (fun t =>
       if t.sec < 86399 then { t with sec := t.sec + 1 }
       else if t.day < 36524 then { day := t.day + 1, sec := 0 } else { day := 0, sec := 0 }) →
     tb = { s.tb with
       time := new, sub := 0
       secLen := (match new with
         | some t => if t.sec % 60 = 59 then (32768 + s.tb.trim).toNat else 32768
         | none => 32768)
       clock := s.tb.clock + (s.tb.secLen - s.tb.sub)
       restart := s.tb.restart.map fun r => { r with spanned := true } } →
     (isRunning s.tb = true →
       exec .secondEnd s = .next (settled { s with tb := tb } (pushSecond
         { new := new, minute := new.any fun t => t.sec % 60 == 0, day := new.any fun t => t.sec == 0, step := none }
         s.dev))) ∧
     (isRunning s.tb = false → exec .secondEnd s = .next { s with tb := tb })) ∧
  (∀ (s : State),
     (∀ (now new : Stamp) (p : ShiftPlan), s.tb.retained = true → s.tb.time = some now → s.tb.slot = some p →
       now.day = p.day → now.sec + 1 = p.stated →
       new = { day := p.day, sec := ((p.stated : Int) + p.shift).toNat } →
       exec .shiftApply s = exec .secondEnd s ∧
       ∃ t, exec .shiftApply s = .next t ∧ t.tb.time = some new ∧ t.tb.sub = 0 ∧ t.tb.slot = none ∧
         t.tb.trim = s.tb.trim ∧
         (isRunning s.tb = true → t.dev = settle (envOf { s with tb := t.tb })
           (pushSecond
             { new := some new, minute := false, day := false
               step := some { old := some now, new := new, cause := .shift, dateChanged := false } }
             (latch .shiftApplied s.dev))) ∧
         (isRunning s.tb = false → t.dev = s.dev) ∧
         (s.tb.supply = .backup → t.tb.outageShift = some (now, new)) ∧
         (∀ r, s.tb.restart = some r → t.tb.restart = some { r with spanned := true, shifted := true })) ∧
     (shiftDue s.tb = none → exec .shiftApply s = .next s)) ∧
  (∀ (ev : SecondEvent) (d : Dev), pushSecond ev d = { d with agenda := d.agenda ++
     [.second .quiet ev, .second .tt ev, .second .lc ev, .second .ta ev, .second .dc ev,
       .second (.rs d.rs.nextOrder) ev, .second (.am d.am.nextOrder) ev, .second .pu ev, .second .ah ev] }) ∧
  (∀ (e : Env) (ev : SecondEvent) (d : Dev),
     (∀ t, ev.new = some t → deliver e (.second .quiet ev) d = endQuiets t d) ∧
     (ev.new = none → deliver e (.second .quiet ev) d = d) ∧
     deliver e (.second .tt ev) d = ttSecond e ev d ∧
     deliver e (.second .lc ev) d = { d with agenda := d.agenda ++
       ((List.finRange 16).filter fun i => (d.lines[i]).isSome).map fun i => .lineSecond i ev } ∧
     (∀ i : LineNo, deliver e (.lineSecond i ev) d = lineSecond e i ev d) ∧
     deliver e (.second .ta ev) d = taSecond d ∧ deliver e (.second .dc ev) d = dcSecond e ev d ∧
     (∀ born : Nat, deliver e (.second (.rs born) ev) d = rsSecond e born d ∧
       deliver e (.second (.am born) ev) d = amSecond e ev born d) ∧
     (∀ (r : RunIx) (order : Nat), deliver e (.runReclaim r order) d = runTurn e r order d) ∧
     deliver e .scan d = scanQueue e d ∧ deliver e (.second .pu ev) d = puSecond e d ∧
     (∀ k : PageSlot, deliver e (.pageReclaim k) d = reclaimPage k d) ∧
     deliver e (.second .ah ev) d = lampSecond .ah d) ∧
  (∀ (e : Env) (d : Dev) (b : Building),
     deliver e (.busStart b) d = startBus e b d ∧ deliver e (.applySent b) d = takeApplySent b d ∧
     (∀ (c : Command) (o : CmdOutcome),
       (∀ i, c.owner = .lc i → deliver e (.cmdOutcome b c o) d = takeLcOutcome e b i c o d) ∧
       (∀ m, c.owner = .ta → c.op = .stage m → deliver e (.cmdOutcome b c o) d = takeStageOutcome b c o d) ∧
       (c.owner = .ta → c.op = .mute → deliver e (.cmdOutcome b c o) d = takeMuteOutcome b c o d) ∧
       (c.owner = .dc → deliver e (.cmdOutcome b c o) d = lampOutcome .dc b c o d) ∧
       (c.owner = .ah → c.op = .mute → deliver e (.cmdOutcome b c o) d = muteOutcome b o d) ∧
       (∀ l, c.owner = .ah → c.op = .lamp l → deliver e (.cmdOutcome b c o) d = lampOutcome .ah b c o d)) ∧
     (∀ (addr : Nat) (p : Polarity), deliver e (.driverOnline b addr p) d = driverReports e b addr p d) ∧
     (∀ (addr : Nat) (v : DriverView), deliver e (.driverView b addr v) d = driverGone e b addr v d) ∧
     (∀ addr r p, deliver e (.probeResult b addr r p) d = probeFound e b addr r p d) ∧
     (∀ m : ZoneMap, deliver e (.switchReport b m) d = takeSwitchReport b m d) ∧
     deliver e (.switchLost b) d = switchGone b d ∧
     (∀ age lamp reply,
       deliver e (.panelReport false b age lamp reply) d = drillClear e b age reply (lampShown .dc b lamp d) ∧
       deliver e (.panelReport true b age lamp reply) d = alarmClear b age reply (lampShown .ah b lamp d)) ∧
     (∀ l : List (Claimant × Building), deliver e (.preempted l) d = l.foldl (fun x p =>
       match p.1 with
       | .ring r => runNotice e r p.2 .preempted x
       | .announce id => amNotice e id p.2 true x
       | .page k => pageNotice k p.2 x
       | .drill => x) d) ∧
     (∀ (r : RunIx) (id : Nat) (k : PageSlot),
       deliver e (.lost (.ring r) b) d = runNotice e r b .failed (runsForget b d) ∧
       deliver e (.lost (.announce id) b) d = amNotice e id b false (amForget (bsOne b) d) ∧
       deliver e (.lost (.page k) b) d = pageNotice k b (pageForget k b d) ∧
       deliver e (.lost .drill b) d = drillNotice b d ∧
       ∀ set : BuildingSet, deliver e (.started (.ring r) set) d = runStarted e r set d ∧
         deliver e (.started (.announce id) set) d = amStarted e id set d ∧
         deliver e (.started (.page k) set) d = pageStarted e k set d ∧
         deliver e (.started .drill set) d = drillStarted e set d) ∧
     (∀ c : Claimant, deliver e (.barrierCheck c) d = checkBarrier c d) ∧
     deliver e (.trunkFree .dc b) d = dcTrunkFree b d ∧ deliver e (.trunkFree .rs b) d = rsTrunkFree e b d ∧
     deliver e (.trunkFree .am b) d = amTrunkFree e b d ∧ deliver e (.trunkFree .pu b) d = puTrunkFree b d) ∧
  (∀ (e : Env) (d : Dev),
     (∀ ref o, deliver e (.ringOutcome ref o) d = takeRingOutcome ref o d) ∧
     (∀ k, deliver e (.chimeEnd k) d = chimeOver k d ∧ deliver e (.chimeTaken k) d = chimeOver k d) ∧
     (∀ id o, deliver e (.clipOutcome id o) d = clipOver e id d) ∧
     (∀ st, deliver e (.stepTT st) d = ttStep e st d ∧
       deliver e (.stepLC st) d = (List.finRange 16).foldl (fun x i => evaluate e i x) d) ∧
     (∀ sec, deliver e (.ttDue sec) d = entriesDue e.now sec d) ∧
     (∀ slot late pass, deliver e (.ttPass slot late pass) d = passEntry e slot late pass d) ∧
     deliver e .ttSettle d = settleSent d) ∧
  (∀ (e : Env) (d : Dev), settle e d = drain e 4096 d.agenda { d with agenda := [] } ∧
     (∀ fuel, drain e fuel [] { d with agenda := [] } = { d with agenda := [] }) ∧
     ∀ (fuel : Nat) (m : Msg) (rest : List Msg), drain e (fuel + 1) (m :: rest) d =
       drain e fuel ((deliver e m { d with agenda := [] }).agenda ++ rest)
         { deliver e m { d with agenda := [] } with agenda := [] })

/-- Entry to backup (R13, R15, R176): the outage stamp is written by its mode, the outage start noted, the state
is BACKUP, and the link loses what it holds; every block takes the event (what each does is
BlocksAtEntryToBackup). The retained state stays valid when VBAK is there (R17; that the model holds VBAK is log
entry 38). A RESTART in progress ends first, as its release would end it (what that does, ResetnHoldsARestart
says), but for the attempts that the buses carry, which are abandoned without an outcome (R13, R40); what an
abandoned attempt's station had taken it keeps (log entry 13). An attempt that this end lets start has not been
taken by its station (the model's choice, log entry 36). Without power there is nothing to enter. -/
def Obligations.EntryToBackupWritesTheStamp : Prop :=
  let entered (s t : State) : Prop :=
    (∃ start stop : Option Stamp, t.tb = { s.tb with
        supply := .backup, vmain := false, qualifying := none, restart := none, retained := s.tb.vbak
        outageStart := s.tb.time, outageShift := none
        stampCount := if s.tb.stampCount < 255 then s.tb.stampCount + 1 else s.tb.stampCount
        stampStart := start, stampEnd := stop } ∧
      (s.link.settings.stampMode = .last → start = s.tb.time ∧ stop = none) ∧
      (s.link.settings.stampMode = .first →
        (s.tb.stampStart = none ∧ s.tb.stampEnd = none → start = s.tb.time ∧ stop = none) ∧
        (s.tb.stampStart.isSome ∨ s.tb.stampEnd.isSome → start = s.tb.stampStart ∧ stop = s.tb.stampEnd))) ∧
    t.link = { s.link with rx := none, inReply := none, waiting := none } ∧ t.pending = s.pending ∧ attnLow t = false
  (∀ (s : State) (taken : BuildingSet), isRunning s.tb = true →
    ∃ t, exec (.entryToBackup taken) s = .next t ∧ entered s t ∧
      t.dev = settle (envOf t) (devBackup taken (envOf t) s.dev)) ∧
  (∀ (s : State) (taken : BuildingSet) (r : RestartRun), isPowered s.tb = true → s.tb.restart = some r →
    let cut : Dev := { s.dev with bus := Vector.ofFn fun b : Building =>
      { (if bsHas taken b then fieldCutOff s.dev.bus[b] else s.dev.bus[b]) with wire := .idle } }
    ∃ t, exec (.entryToBackup taken) s = .next t ∧ entered s t ∧
      t.dev = settle (envOf t) (devBackup 0 (envOf t) (endRestart { s with dev := cut }).dev)) ∧
  (∀ (s : State) (taken : BuildingSet), isPowered s.tb = false → exec (.entryToBackup taken) s = .next s)

/-- VMAIN on backup and the loss of the backup supply (R14, R17): a rise starts the qualification, a fall discards
it, and with both supplies absent the retained state stops being valid, whichever of the two goes last; in MAIN a
change of VMAIN has no effect of its own, its fall being ENTRY_TO_BACKUP (log entries 6 and 38). RESTORE (R14,
R15): the state is MAIN, the stamp is ended by its mode, every block takes the RESTORE event with what it carries
(what each does is BlocksAtRestore), POWER RESTORED is latched, and SHIFT APPLIED if a shift was applied in the
outage; a RESETN that is asserted is then taken as a RESTART (the model's choice, log entry 17), which begins from
the state that the RESTORE has left, as ResetnHoldsARestart says. -/
def Obligations.SuppliesAndRestore : Prop :=
  (∀ s : State,
     (s.tb.supply = .backup →
       (s.tb.vmain = false → exec (.mainSupplyChange true) s =
         .next { s with tb := { s.tb with vmain := true, qualifying := some s.tb.clock } }) ∧
       (s.tb.vmain = true → exec (.mainSupplyChange false) s =
         .next { s with tb := { s.tb with
           vmain := false, qualifying := none, retained := s.tb.retained && s.tb.vbak } }) ∧
       exec (.mainSupplyChange s.tb.vmain) s = .next s) ∧
     (s.tb.supply = .main → ∀ v, exec (.mainSupplyChange v) s = .next s) ∧
     exec .backupSupplyLoss s =
       .next { s with tb := { s.tb with vbak := false, retained := s.tb.retained && s.tb.vmain } }) ∧
  (let restored (s t : State) : Prop :=
     t.dev = settle (envOf t) (devRestore
       { start := s.tb.outageStart, now := s.tb.time, shift := s.tb.outageShift
         dateChanged := (s.tb.outageStart.map fun x => x.day) != (s.tb.time.map fun x => x.day) } (envOf t) s.dev) ∧
     (∃ stop : Option Stamp,
       t.tb = { s.tb with supply := .main, qualifying := none, outageShift := none, stampEnd := stop } ∧
       (s.link.settings.stampMode = .last → stop = s.tb.time) ∧
       (s.link.settings.stampMode = .first →
         stop = if s.tb.stampStart.isSome ∧ s.tb.stampEnd = none then s.tb.time else s.tb.stampEnd)) ∧
     t.link = { s.link with rx := none } ∧ t.pending = s.pending ∧
     condHas t.dev.conds .powerRestored = true ∧
     (s.tb.outageShift.isSome = true → condHas t.dev.conds .shiftApplied = true)
   (∀ s : State, s.tb.supply = .backup → s.tb.retained = true → s.tb.vmain = true → s.tb.resetn = false →
     ∃ t, exec .restore s = .next t ∧ restored s t) ∧
   (∀ s : State, s.tb.supply = .backup → s.tb.retained = true → s.tb.vmain = true → s.tb.resetn = true →
     ∃ u t, restored s u ∧ exec .restore s = .next t ∧ t = beginRestart u ∧
       t.tb = { u.tb with restart := some { began := s.tb.time, spanned := false, shifted := false } } ∧
       t.link = { u.link with rx := none, inReply := none, waiting := none } ∧ t.pending = s.pending ∧
       t.dev = settle (envOf t) (devRestart (envOf t) { u.dev with conds :=
         if s.link.inReply.isSome || s.link.waiting.isSome then u.dev.conds ||| 0x8000 else u.dev.conds }) ∧
       condHas t.dev.conds .powerRestored = true) ∧
   (∀ s : State, s.tb.supply = .main ∨ s.tb.retained = false ∨ s.tb.vmain = false → exec .restore s = .next s))

/-- A COLD start (R17): every field has its COLD value, time base, link and blocks alike, and COLD START is the
one condition. The input levels and true time are not the device's and stay, as do the field stations, which power
up with their buses, a driver without a measurement, a panel with lamp OFF and latch clear (R24, R25; that a relay
keeps its polarity and a zone switch its maps, and that the inputs are read afresh, is the model's choice: log
entries 26 and 34). A RESETN that is asserted then is taken as a RESTART (the model's choice, log entry 17), which
begins from the state with the COLD values, and with the retained state valid there is no COLD start. That the
backup supply is there again at a COLD start is the model's choice (log entry 38). -/
def Obligations.ColdStartClearsTheDevice : Prop :=
  let cold (s t : State) : Prop :=
    t.tb = { Timebase.cold with clock := s.tb.clock, resetn := s.tb.resetn } ∧ t.link = Link.cold ∧
    t.pending = s.pending ∧
    t.dev.conds = 1 ∧ t.dev.lines = Dev.cold.lines ∧ t.dev.tt = Timetable.cold ∧ t.dev.ta = Trunks.cold ∧
    t.dev.rs = Ring.cold ∧ t.dev.dc = DrillControl.cold ∧
    t.dev.am = { Announcer.cold with cplay := s.dev.am.cplay } ∧
    t.dev.ah =
      { active := false, level := s.dev.ah.level, timing := if s.dev.ah.level then some s.tb.clock else none
        hold := false, record := none
        lamps := Vector.replicate 8 { wanted := none, outstanding := none, full := false } } ∧
    (∀ b : Building, t.dev.bus[b] =
      { rows := [], queue := [], retries := [], wire := .idle, applyPending := false, alarm := false
        drillFast := false, alarmFast := false, heldOut := []
        field := (s.dev.bus[b]).field.map fun f => { f with probe := .none, press := none, lamp := .off } }) ∧
    (∀ k : PageSlot, pageOf t.dev k =
      { Page.cold with level := (pageOf s.dev k).level, seen := (pageOf s.dev k).level }) ∧
    t.dev.agenda = []
  (∀ s : State, s.tb.retained = false → s.tb.vmain = true → s.tb.resetn = false →
    ∃ t, exec .coldStart s = .next t ∧ cold s t) ∧
  (∀ s : State, s.tb.retained = false → s.tb.vmain = true → s.tb.resetn = true →
    ∃ u t, cold s u ∧ exec .coldStart s = .next t ∧ t = beginRestart u ∧
      t.tb = { u.tb with restart := some { began := none, spanned := false, shifted := false } } ∧
      t.link = Link.cold ∧ t.pending = s.pending ∧
      t.dev = settle (envOf t) (devRestart (envOf t) u.dev) ∧ condHas t.dev.conds .coldStart = true) ∧
  (∀ s : State, s.tb.retained = true ∨ s.tb.vmain = false → exec .coldStart s = .next s)

/-- RESETN (R18, R176): asserted while the device runs it begins a RESTART, which the release ends; the time base
keeps its values through both, and the step that the end hands to TT and LC is there when a second has ended in
between and time is VALID. What each block does at both is BlocksAtRestart. -/
def Obligations.ResetnHoldsARestart : Prop :=
  (∀ s : State, isRunning s.tb = true → s.tb.resetn = false →
    ∃ t, exec .resetnAssert s = .next t ∧
      t.tb = { s.tb with resetn := true, restart := some { began := s.tb.time, spanned := false, shifted := false } } ∧
      t.link = { s.link with rx := none, inReply := none, waiting := none } ∧
      (s.link.inReply.isSome = true → condHas t.dev.conds .linkOverrun = true) ∧
      t.dev = settle (envOf t) (devRestart (envOf t)
        { s.dev with conds :=
            if s.link.inReply.isSome || s.link.waiting.isSome then s.dev.conds ||| 0x8000 else s.dev.conds })) ∧
  (∀ (s : State) (r : RestartRun), s.tb.restart = some r →
    ∃ t, exec .resetnRelease s = .next t ∧ t.tb = { s.tb with resetn := false, restart := none } ∧ t.link = s.link ∧
      t.dev = settle (envOf t)
        (devRestartEnds (envOf t)
          (if r.spanned then s.tb.time.map fun new =>
              { old := r.began, new := new, cause := .restart
                dateChanged := (r.began.map fun x => x.day) != some new.day } else none)
          r.shifted s.dev) ∧
      (r.shifted = true → condHas t.dev.conds .shiftApplied = true)) ∧
  (∀ s : State, s.tb.restart = none →
    exec .resetnRelease s = .next { s with tb := { s.tb with resetn := false } }) ∧
  (∀ s : State, s.tb.resetn = true ∨ isRunning s.tb = false →
    exec .resetnAssert s = .next { s with tb := { s.tb with resetn := true } })

/-- What each block gives up and keeps at entry to backup. Buses (R40): everything in hand goes without an outcome,
rows, mode and fast flags stay, and of the field only what had taken the transaction in flight changes: the
station of a command, by R22 to R25, or every zone switch by an apply mark (R21); a poll that is cut off clears no
latch (R25), and an idle bus changes nothing. Whether it had been taken is an operand of the command (log entry 13).
Lines (R59): impulse and probe in flight. TT (R81): SENT marks become MISSED, before the ended runs' outcomes or after them (a free
value, log entry 11). TA (R100): every row but ALARM's is emptied, and the barriers. RS (R117): every active run
ends ABORTED-POWER, generators and lists are emptied. AM (R135): every request ends with POWER, in queue order, and DC
is told of a drill clip (R130). PU (R146): both
slots are IDLE. DC (R162): the drill ends ABORTED-POWER and leaves its lamps wanted OFF. AH (R172): the hold
stays, its input timing and outstanding LAMPs go. -/
def Obligations.BlocksAtEntryToBackup : Prop :=
  ∀ (taken : BuildingSet) (e : Env) (d d' : Dev), devBackup taken e d = d' →
    (∀ b : Building,
      d'.bus[b] = { d.bus[b] with
        queue := [], retries := [], wire := .idle, applyPending := false, heldOut := []
        rows := (d.bus[b]).rows.map fun r =>
          { r with pollAt := none, dueAt := none, probeAt := none, probeDue := false, drivingUntil := none }
        field := (d'.bus[b]).field } ∧
      (bsHas taken b = false → (d'.bus[b]).field = (d.bus[b]).field) ∧
      (bsHas taken b = true →
        (∀ t c, (d.bus[b]).wire = .attempt t → t.what = .command c → ∀ addr : Nat,
          fieldAt d'.bus[b] addr =
            if addr = t.addr then (stationTake c.op false (fieldAt d.bus[b] addr)).1 else fieldAt d.bus[b] addr) ∧
        (∀ t probe, (d.bus[b]).wire = .attempt t → t.what = .poll probe → (d'.bus[b]).field = (d.bus[b]).field) ∧
        ((d.bus[b]).wire = .applyMark → (d'.bus[b]).field = (d.bus[b]).field.map fun f =>
          if (d.bus[b]).rows.any (fun r => r.addr == f.addr && r.kind != .zoneSwitch) then f
          else { f with active := f.staged }) ∧
        ((d.bus[b]).wire = .idle → (d'.bus[b]).field = (d.bus[b]).field))) ∧
    (∀ i : LineNo, d'.lines[i] = (d.lines[i]).map fun l => { l with inFlight := none, probe := none }) ∧
    (d'.tt = d.tt ∨ d'.tt = (settleSent d).tt) ∧ Msg.ttSettle ∈ d'.agenda ∧
    (∀ p : PlanNo, d.tt.todayPlan = some (.plan p) →
      (settleSent d).tt = { d.tt with plans := put d.tt.plans p ((d.tt.plans[p]).map fun x =>
        if markOf x = some .sent then { x with day := x.day.map fun k => { k with mark := .missed } } else x) } ∧
      ((∃ x ∈ d.tt.plans[p], markOf x = some .sent) → condHas (settleSent d).conds .ringMissed = true)) ∧
    (d'.ta.zones = d.ta.zones ∧ d'.ta.barriers = [] ∧ ∀ b : Building, d'.ta.rows[b] =
      if (d.ta.rows[b]).holder = .alarm then
        { d.ta.rows[b] with source := .silent, stage := none, awaited := none, fired := false }
      else { d.ta.rows[b] with
        holder := .none, map := 0, releasing := false, source := .silent, stage := none, awaited := none
        fired := false }) ∧
    (d'.rs.patterns = d.rs.patterns ∧ (∀ g : GenNo, d'.rs.gens[g] = none) ∧ d'.rs.waitList = [] ∧
      d'.rs.startOrder = [] ∧
      ∀ r : RunIx, (d.rs.runs[r] = none → d'.rs.runs[r] = none) ∧
        ∀ x, d.rs.runs[r] = some x →
          (x.state = .done → d'.rs.runs[r] = some { x with released := 0 }) ∧
          (x.state ≠ .done → ∃ y o, d'.rs.runs[r] = some y ∧ o = (if x.sounded = 0 then .missed else .partly) ∧
            y.state = .done ∧ y.ending = some .abortedPower ∧ y.outcome = some o ∧ y.endTime = e.now ∧ y.gen = none ∧
            y.released = 0 ∧ ∀ ref, x.origin = .entry ref → Msg.ringOutcome ref o ∈ d'.agenda)) ∧
    (d'.am = { d.am with
        queue := [], player := .idle, released := [], startBy := none, endBy := none, stopBy := none
        finished := d'.am.finished } ∧
      (d.am.queue ≠ [] → condHas d'.conds .announceAbnormal = true) ∧
      ((d.am.queue.map fun r => r.id).Nodup → ∀ r ∈ d.am.queue, r.origin = .drill →
        Msg.clipOutcome r.id .power ∈ d'.agenda) ∧
      ∀ all : List FinishedRec, (d.am.queue.map fun r => r.id).Nodup → d.am.finished.length ≤ 8 →
        all = d.am.finished ++ d.am.queue.map (fun r =>
          { id := r.id, origin := r.origin, clip := r.clip, prio := r.prio, outcome := .power, delivered := 0
            endTime := e.now }) →
        d'.am.finished = all.drop (all.length - 8)) ∧
    (∀ k : PageSlot, pageOf d' k = { pageOf d k with
      state := .idle, started := false, held := 0, chimeGen := none, waitCount := 0, talkCount := 0, lockout := false
      released := 0, since := none }) ∧
    (d'.dc.drill = none ∧ d'.dc.scripts = d.dc.scripts ∧ d'.dc.slot = d.dc.slot ∧ d'.dc.lastResult = d.dc.lastResult ∧
      d'.dc.nextRecord = d.dc.nextRecord ∧
      (∀ b : Building, d'.dc.lamps[b] =
        { wanted := if d.dc.drill.any (fun x => x.phase ≠ .pre ∧ bsHas x.buildings b = true) then some .off
            else (d.dc.lamps[b]).wanted
          outstanding := none, full := false }) ∧
      (d.dc.drill = none → d'.dc.records = d.dc.records) ∧
      (∀ x, d.dc.drill = some x → condHas d'.conds .drillEnded = true ∧
        ∀ r ∈ d.dc.records, r.number = x.record → r.outcome = none →
          { r with outcome := some .abortedPower, endTime := latestOf e.now (latestStamp r) } ∈ d'.dc.records)) ∧
    d'.ah = { d.ah with
      timing := none, lamps := Vector.ofFn fun b : Building =>
        { d.ah.lamps[b] with outstanding := none, full := false } }

/-- What each block does at RESTORE. Buses (R40): every station is UNKNOWN with its first poll due and its
last-heard time kept, and powers up (R24, R25; log entry 34); a bus in alarm mode places MUTE and LAMP ON. Lines
(R60): view UNKNOWN, pace 10, and the state that follows; LINE UNSET for a line without a dial position. TT
(R82): what EntriesFallDue says of `ttRestore`. TA (R100): quiets that have passed end, sources are SILENT,
configured rows await a report. RS resumes nothing (R117). AM (R135): STOPPING with the STOP strobe if CPLAY is
asserted. PU (R146): the inputs are read afresh, with lockout for a LEVEL slot that is pressed. DC (R162):
drill-fast flags clear, a scheduled drill whose moment has passed is NOT-STARTED OUTAGE, lamps wanted OFF are
placed unless the hold is in force. AH (R172): with the hold the LAMP ONs placed are outstanding, without it
lamps wanted OFF are placed; the input is timed afresh. POWER RESTORED is latched. That a quiet-until and a
scheduled moment are compared as dates, not around the calendar's wrap, is the model's choice (log entry 51,
DEDUCED). -/
def Obligations.BlocksAtRestore : Prop :=
  ∀ (ev : RestoreEvent) (e : Env) (d d' : Dev), devRestore ev e d = d' →
    let shown (c : Command) : Nat × BusOp × Owner := (c.addr, c.op, c.owner)
    let placed (b : Building) (op : BusOp) (owner : Owner) (n : Nat) : Prop :=
      ∃ c ∈ (d'.bus[b]).queue, c.serial = n ∧ c.op = op ∧ c.owner = owner
    (∀ b : Building,
      (d'.bus[b]).rows = (d.bus[b]).rows.map (fun r =>
        { addr := r.addr, kind := r.kind, state := .unknown, fails := 0, lastHeard := r.lastHeard, unreported := false
          pollAt := none, dueAt := some e.clock, probeAt := none, probeDue := false, probeRuns := 0, lastPoll := none
          drivingUntil := none }) ∧
      (d'.bus[b]).field = (d.bus[b]).field.map (fun f => { f with probe := .none, press := none, lamp := .off }) ∧
      (d'.bus[b]).alarm = (d.bus[b]).alarm ∧ (d'.bus[b]).alarmFast = (d.bus[b]).alarmFast ∧
      (d'.bus[b]).drillFast = false ∧ (d'.bus[b]).wire = (d.bus[b]).wire ∧
      (d.ah.hold = true → (d'.bus[b]).queue.map shown =
        if (d.bus[b]).alarm then
          ((rowOfKind d.bus[b] .zoneSwitch).toList.map fun r => (r.addr, BusOp.mute, Owner.ah)) ++
            ((rowOfKind d.bus[b] .marshalPanel).toList.map fun r => (r.addr, BusOp.lamp .on, Owner.ah))
        else (d.bus[b]).queue.map shown)) ∧
    ((∀ i : LineNo, d'.lines[i] = (d.lines[i]).map fun l => { l with
        view := .unknown, pace := 10, faultWait := 0
        state := if l.enabled = false then .disabled else if l.pos = none then .unset else .offline }) ∧
      ((∃ (i : LineNo) (l : Line), d.lines[i] = some l ∧ l.pos = none) →
        condHas d'.conds .lineUnset = true)) ∧
    d'.tt = (ttRestore ev d).tt ∧
    (d'.ta.barriers = d.ta.barriers ∧
      (∀ b : Building, d'.ta.rows[b] = { d.ta.rows[b] with
        source := .silent
        settling := if (rowOfKind d.bus[b] .zoneSwitch).isSome then .awaiting else (d.ta.rows[b]).settling }) ∧
      ∀ i : Fin 64, d'.ta.zones[i] = { d.ta.zones[i] with
        quiet := (d.ta.zones[i]).quiet.filter fun t =>
          ev.now.all fun now => decide (now.day * 86400 + now.sec ≤ t.day * 86400 + t.sec) }) ∧
    d'.rs = d.rs ∧
    (d'.am = if d.am.cplay then
        { d.am with
          strobe := .stop, player := .stopping, startBy := none, endBy := none, stopBy := some (e.clock + 32768) }
      else { d.am with player := .idle, startBy := none, endBy := none, stopBy := none }) ∧
    (∀ k : PageSlot, pageOf d' k = { pageOf d k with
      state := .idle, started := false, held := 0, chimeGen := none, waitCount := 0, talkCount := 0
      released := 0, since := none, seen := (pageOf d k).level
      lockout := (pageOf d k).configured && decide ((pageOf d k).trigger = .level) && (pageOf d k).level }) ∧
    (d'.dc.drill = d.dc.drill ∧ d'.dc.scripts = d.dc.scripts ∧ d'.dc.records = d.dc.records ∧
      d'.dc.nextRecord = d.dc.nextRecord ∧
      (∀ (p : DrillPlan) (now : Stamp), d.dc.slot = some p → ev.now = some now →
        p.moment.day * 86400 + p.moment.sec ≤ now.day * 86400 + now.sec →
        d'.dc.slot = none ∧ d'.dc.lastResult = .notStarted .outage ∧ condHas d'.conds .drillEnded = true) ∧
      ((∀ (p : DrillPlan) (now : Stamp), d.dc.slot = some p → ev.now = some now →
          now.day * 86400 + now.sec < p.moment.day * 86400 + p.moment.sec) →
        d'.dc.slot = d.dc.slot ∧ d'.dc.lastResult = d.dc.lastResult) ∧
      (d.ah.hold = true → ∀ b : Building, d'.dc.lamps[b] = { d.dc.lamps[b] with wanted := none, full := false })) ∧
    (d'.ah = { d.ah with
        timing := if d.ah.level = d.ah.active then none else some e.clock, lamps := d'.ah.lamps } ∧
      (d.ah.hold = true → ∀ b : Building,
        ((d.bus[b]).alarm = true → (rowOfKind d.bus[b] .marshalPanel).isSome = true → ∃ n,
          d'.ah.lamps[b] = { d.ah.lamps[b] with outstanding := some n, full := false } ∧
            placed b (.lamp .on) .ah n) ∧
        ((d.bus[b]).alarm = false ∨ rowOfKind d.bus[b] .marshalPanel = none →
          d'.ah.lamps[b] = d.ah.lamps[b])) ∧
      (d.ah.hold = false → ∀ b : Building,
        ((d.ah.lamps[b]).wanted ≠ some .off →
          d'.ah.lamps[b] = { d.ah.lamps[b] with outstanding := none, full := false }) ∧
        ∀ r, rowOfKind d.bus[b] .marshalPanel = some r → rowAt d.bus[b] r.addr = some r →
          (d.bus[b]).alarm = false → (d.bus[b]).queue.length ≤ 4 →
          ((d.ah.lamps[b]).wanted = some .off → ∃ n,
            d'.ah.lamps[b] = { wanted := some .off, outstanding := some n, full := false } ∧
              placed b (.lamp .off) .ah n) ∧
          ((d.dc.lamps[b]).wanted = some .off → (d.dc.lamps[b]).outstanding = none → ∃ n,
            d'.dc.lamps[b] = { wanted := some .off, outstanding := some n, full := false } ∧
              placed b (.lamp .off) .dc n))) ∧
    condHas d'.conds .powerRestored = true ∧ (ev.shift.isSome = true → condHas d'.conds .shiftApplied = true)

/-- What each block does as a RESTART begins and as it ends. It begins. Buses (R41): the attempt on the wires is
carried, all else in hand is dropped, the mode is NORMAL, the fast flags clear, every station UNKNOWN. Lines
(R61), TT (R83), TA (R100), PU (R146): as at entry to backup, but the lines' view is UNKNOWN, every row is
emptied, configured ones await a report, and the inputs are read afresh. RS (R117): runs end ABORTED, their
outcomes kept for the end. AM (R135): requests end ABORTED, in queue order, each with its finished record, and the
outcome of a drill clip is kept for the end; the PLAYING one leaves the player IDLE in STAGING, and in STARTING
and PLAYING is stopped with the STOP strobe, which with CPLAY released leaves it IDLE at once (the model's choice,
log entry 15). DC (R162): the drill ends ABORTED. That a transaction between two attempts goes without an outcome,
that the switch is read afresh at the beginning too, and that a RESTART in ALLCLEAR leaves the lamps as they are,
is the model's choice (log entries 22, 24 and 36). It ends: held outcomes go out, DC being told of the drill clip
(R135), the step goes to TT and LC, lines are evaluated, the player is STOPPING or IDLE (R135; that no strobe is
sent and the stop window is full is the model's choice, log entry 42), and with the hold in force the trunks are
forced, alarm mode and alarm-fast set on every bus and the LAMP ONs outstanding (R172). -/
def Obligations.BlocksAtRestart : Prop :=
  (∀ (e : Env) (d d' : Dev), devRestart e d = d' →
    (∀ b : Building, d'.bus[b] = { d.bus[b] with
      queue := [], retries := [], applyPending := false, alarm := false, drillFast := false, alarmFast := false
      wire := (match (d.bus[b]).wire with
        | .attempt t => .attempt { t with carried := true }
        | .applyMark => .applyMark
        | .idle => .idle)
      rows := (d.bus[b]).rows.map fun r =>
        { addr := r.addr, kind := r.kind, state := .unknown, fails := 0, lastHeard := r.lastHeard, unreported := false
          pollAt := none, dueAt := some e.clock, probeAt := none, probeDue := false, probeRuns := 0, lastPoll := none
          drivingUntil := none } }) ∧
    (∀ i : LineNo, d'.lines[i] = (d.lines[i]).map fun l =>
      { l with inFlight := none, probe := none, pace := 10, faultWait := 0, view := .unknown }) ∧
    (d'.tt = d.tt ∨ d'.tt = (settleSent d).tt) ∧
    (d'.ta.zones = d.ta.zones ∧ d'.ta.barriers = [] ∧ ∀ b : Building, d'.ta.rows[b] = { d.ta.rows[b] with
      holder := .none, map := 0, releasing := false, source := .silent, stage := none, awaited := none, fired := false
      settling := if (rowOfKind d.bus[b] .zoneSwitch).isSome then .awaiting else (d.ta.rows[b]).settling }) ∧
    (d'.rs.patterns = d.rs.patterns ∧ (∀ g : GenNo, d'.rs.gens[g] = none) ∧ d'.rs.waitList = [] ∧
      d'.rs.startOrder = [] ∧
      ∀ r : RunIx, (d.rs.runs[r] = none → d'.rs.runs[r] = none) ∧
        ∀ x, d.rs.runs[r] = some x →
          (x.state = .done → d'.rs.runs[r] = some { x with released := 0 }) ∧
          (x.state ≠ .done → ∃ y o, d'.rs.runs[r] = some y ∧ o = (if x.sounded = 0 then .missed else .partly) ∧
            y.state = .done ∧ y.ending = some .aborted ∧ y.outcome = some o ∧ y.endTime = e.now ∧ y.gen = none ∧
            y.released = 0 ∧ ∀ ref, x.origin = .entry ref → (ref, o) ∈ d'.rs.heldOut)) ∧
    (let idle : Announcer := { d.am with player := .idle, startBy := none, endBy := none, stopBy := none }
      let ended (how : Announcer) : Prop := d'.am = { how with
        queue := [], released := [], finished := d'.am.finished, heldOut := d'.am.heldOut }
      (d.am.queue ≠ [] → condHas d'.conds .announceAbnormal = true) ∧
      ((d.am.queue.map fun r => r.id).Nodup →
        (d.am.finished.length ≤ 8 → ∀ all : List FinishedRec,
          all = d.am.finished ++ d.am.queue.map (fun r =>
            { id := r.id, origin := r.origin, clip := r.clip, prio := r.prio, outcome := .aborted, delivered := 0
              endTime := e.now }) →
          d'.am.finished = all.drop (all.length - 8)) ∧
        d'.am.heldOut = d.am.heldOut ++
          (d.am.queue.filter fun r => r.origin = .drill).map (fun r => (r.id, ReqOutcome.aborted)) ∧
        ((∀ r ∈ d.am.queue, r.playing = false) → ended d.am) ∧
        ((∃ r ∈ d.am.queue, r.playing = true) →
          (d.am.player = .staging → ended idle) ∧
          (d.am.player = .starting ∨ d.am.player = .playing → ended (if d.am.cplay then
            { d.am with
              strobe := .stop, player := .stopping, startBy := none, endBy := none, stopBy := some (e.clock + 32768) }
            else { idle with strobe := .stop })) ∧
          (d.am.player = .stopping ∨ d.am.player = .idle → ended d.am)))) ∧
    (∀ k : PageSlot, pageOf d' k = { pageOf d k with
      state := .idle, started := false, held := 0, chimeGen := none, waitCount := 0, talkCount := 0
      released := 0, since := none, seen := (pageOf d k).level
      lockout := (pageOf d k).configured && decide ((pageOf d k).trigger = .level) && (pageOf d k).level }) ∧
    (d'.dc.drill = none ∧ d'.dc.scripts = d.dc.scripts ∧ d'.dc.slot = d.dc.slot ∧ d'.dc.lastResult = d.dc.lastResult ∧
      d'.dc.nextRecord = d.dc.nextRecord ∧
      (∀ b : Building, d'.dc.lamps[b] =
        { wanted :=
            if d.dc.drill.any (fun x => (x.phase = .evac ∨ x.phase = .muster) ∧ bsHas x.buildings b = true) then
              some .off
            else (d.dc.lamps[b]).wanted
          outstanding := none, full := false }) ∧
      (∀ x, d.dc.drill = some x → condHas d'.conds .drillEnded = true ∧
        ∀ r ∈ d.dc.records, r.number = x.record → r.outcome = none →
          { r with outcome := some .aborted, endTime := latestOf e.now (latestStamp r) } ∈ d'.dc.records)) ∧
    d'.ah = { d.ah with timing := none }) ∧
  (∀ (e : Env) (step : Option TimeStep) (shifted : Bool) (d d' : Dev), devRestartEnds e step shifted d = d' →
    (∀ b : Building, (d'.bus[b]).heldOut = [] ∧
      ∀ p ∈ (d.bus[b]).heldOut, Msg.cmdOutcome b p.1 p.2 ∈ d'.agenda) ∧
    (d'.rs = { d.rs with heldOut := [] } ∧ (∀ p ∈ d.rs.heldOut, Msg.ringOutcome p.1 p.2 ∈ d'.agenda) ∧
      Msg.ttSettle ∈ d'.agenda) ∧
    (∀ st, step = some st → Msg.stepTT st ∈ d'.agenda ∧ Msg.stepLC st ∈ d'.agenda) ∧
    (∀ (i : LineNo) (l : Line), d.lines[i] = some l → l.view ≠ .online → d'.lines[i] = some { l with
      state := if l.enabled = false then .disabled else if l.pos = none then .unset else .offline }) ∧
    (d'.am = (if d.am.cplay then
        { d.am with
          heldOut := [], player := .stopping, startBy := none, endBy := none, stopBy := some (e.clock + 32768) }
      else { d.am with heldOut := [], player := .idle, startBy := none, endBy := none, stopBy := none }) ∧
      ∀ p ∈ d.am.heldOut, Msg.clipOutcome p.1 p.2 ∈ d'.agenda) ∧
    (d'.ah = { d.ah with
      timing := if d.ah.level = d.ah.active then none else some e.clock, lamps := d'.ah.lamps }) ∧
    (shifted = true → condHas d'.conds .shiftApplied = true) ∧
    (d.ah.hold = true → ∀ b : Building,
      (d'.bus[b]).alarm = true ∧ (d'.bus[b]).alarmFast = true ∧
      d'.dc.lamps[b] = { d.dc.lamps[b] with wanted := none, full := false } ∧
      ((rowOfKind d.bus[b] .zoneSwitch).isSome = true → d'.ta.rows[b] = { d.ta.rows[b] with
        holder := .alarm, map := 0, source := .silent, releasing := false, stage := none, awaited := none, applied := 0
        fired := false }) ∧
      ((d.bus[b]).alarm = false →
        (d'.bus[b]).queue.map (fun c => (c.addr, c.op, c.owner)) =
          ((rowOfKind d.bus[b] .zoneSwitch).toList.map fun r => (r.addr, BusOp.mute, Owner.ah)) ++
            ((rowOfKind d.bus[b] .marshalPanel).toList.map fun r => (r.addr, BusOp.lamp .on, Owner.ah)) ∧
        ((rowOfKind d.bus[b] .marshalPanel).isSome = true → ∃ n,
          d'.ah.lamps[b] = { wanted := some .on, outstanding := some n, full := false }))) ∧
    (d.ah.hold = false → d'.ta = d.ta ∧ ((∀ (i : LineNo) (l : Line), d.lines[i] = some l → l.view ≠ .online) →
      ∀ (b : Building) (r : Station), rowOfKind d.bus[b] .marshalPanel = some r → rowAt d.bus[b] r.addr = some r →
        r.state ≠ .offline → (d.bus[b]).alarm = false → (d.bus[b]).queue.length ≤ 4 →
        ((d.ah.lamps[b]).wanted = some .off → ∃ n,
          d'.ah.lamps[b] = { wanted := some .off, outstanding := some n, full := false }) ∧
        ((d.dc.lamps[b]).wanted = some .off → (d.dc.lamps[b]).outstanding = none → ∃ n,
          d'.dc.lamps[b] = { wanted := some .off, outstanding := some n, full := false }))))

/-- Whatever the step, the time base stays lawful (campus time in the calendar, the trim, the second's length, the
planned shift and the stamp in their ranges: R1, R3, R4, R10, R15), and so does the link (a request waits only
while another is in reply, and the settings stay in their ranges: R174, R177). -/
def Obligations.EveryStepKeepsTimeAndLinkLawful : Prop :=
  (∀ s t : State, timeLawful s.tb = true → step s = .next t → timeLawful t.tb = true) ∧
  (∀ s t : State, linkLawful s.link = true → step s = .next t → linkLawful t.link = true)

/-! ## Building buses (chapter 2) -/

/-- The answer to a command offered for a queue, in the order of R31's table; only ACCEPTED places it, at the tail,
and then the bus may start (the serial is the model's mark of one command, R93). Alarm mode (R38): every queued
command leaves with DISCARDED ALARM MODE, MUTE and LAMP ON of AH take their places, and a bus already in ALARM
mode stays as it is. What an idle bus starts while the device runs (R21, R32, R33): an apply mark that is
pending; else the first retry whose station has no driver driving; else, of the due polls that may go, the one
due longest, at one tick the lowest address, where BYPASS mode holds a poll back for commands to its own station
and IN-ORDER mode for any command; else the head of the queue, which waits for every retry and for a driver
still driving. That a bus starts nothing in a RESTART or on backup is the model's choice (log entry 18,
DEDUCED). -/
def Obligations.QueuesTakeAndLoseCommands : Prop :=
  (∀ (b : Building) (addr : Nat) (op : BusOp) (owner : Owner) (d : Dev),
     (rowAt d.bus[b] addr = none → enqueue b addr op owner d = (.notConfigured, d)) ∧
     (∀ r, rowAt d.bus[b] addr = some r →
       (r.kind ≠ opKind op → enqueue b addr op owner d = (.notConfigured, d)) ∧
       (r.kind = opKind op →
         (r.state = .offline → enqueue b addr op owner d = (.stationOffline, d)) ∧
         (r.state ≠ .offline →
           ((d.bus[b]).alarm = true ∧ isStage op = true → enqueue b addr op owner d = (.notAccepted, d)) ∧
           (((d.bus[b]).alarm = false ∨ isStage op = false) →
             ((if (d.bus[b]).alarm then 2 else 6) ≤ (d.bus[b]).queue.length →
               enqueue b addr op owner d = (.queueFull, d)) ∧
             ((d.bus[b]).queue.length < (if (d.bus[b]).alarm then 2 else 6) →
               enqueue b addr op owner d = (.accepted d.serial, push (.busStart b) (setBus b
                 { d.bus[b] with queue := (d.bus[b]).queue ++
                     [{ addr := addr, op := op, owner := owner, serial := d.serial }] }
                 { d with serial := d.serial + 1 })))))))) ∧
  (∀ (b : Building) (d : Dev),
     ((d.bus[b]).alarm = true → orderAlarmMode b d = (none, d)) ∧
     ((d.bus[b]).alarm = false →
       ∃ n d', orderAlarmMode b d = (n, d') ∧ (d'.bus[b]).alarm = true ∧
         (d'.bus[b]).queue.map (fun c => (c.addr, c.op, c.owner)) =
           ((rowOfKind d.bus[b] .zoneSwitch).toList.map fun r => (r.addr, BusOp.mute, Owner.ah)) ++
           ((rowOfKind d.bus[b] .marshalPanel).toList.map fun r => (r.addr, BusOp.lamp .on, Owner.ah)) ∧
         (d'.bus[b]).wire = (d.bus[b]).wire ∧ (d'.bus[b]).retries = (d.bus[b]).retries ∧
         (d'.bus[b]).applyPending = (d.bus[b]).applyPending ∧
         ∃ ms, d'.agenda =
           d.agenda ++ (d.bus[b]).queue.map (fun c => Msg.cmdOutcome b c (.discarded .alarmMode)) ++ ms)) ∧
  (∀ (e : Env) (b : Building) (d d' : Dev) (bus : Bus), d.bus[b] = bus → startBus e b d = d' →
     let driving (addr : Nat) : Prop := ∃ r t, rowAt bus addr = some r ∧ r.drivingUntil = some t ∧ e.clock < t
     let mayGo (r : Station) : Prop := r.dueAt.isSome = true ∧ ¬driving r.addr ∧
       (e.settings.bypass[b] = .bypass → (∀ c ∈ bus.queue, c.addr ≠ r.addr) ∧
         ∀ t ∈ bus.retries, ∀ c, t.what = .command c → t.addr ≠ r.addr) ∧
       (e.settings.bypass[b] = .inOrder → bus.queue = [] ∧ ∀ t ∈ bus.retries, ∀ c, t.what ≠ .command c)
     (e.running = false ∨ bus.wire ≠ .idle → d' = d) ∧
     (e.running = true → bus.wire = .idle →
       (bus.applyPending = true → d' = setBus b { bus with applyPending := false, wire := .applyMark } d) ∧
       (bus.applyPending = false →
         (∀ before t after, bus.retries = before ++ t :: after → (∀ x ∈ before, driving x.addr) → ¬driving t.addr →
           d' = setBus b { bus with wire := .attempt t, retries := before ++ after } d) ∧
         ((∀ t ∈ bus.retries, driving t.addr) →
           (∀ r ∈ bus.rows, mayGo r →
             (∀ q ∈ bus.rows, mayGo q → q = r ∨ ∀ t u, r.dueAt = some t → q.dueAt = some u →
               t < u ∨ (t = u ∧ r.addr < q.addr)) →
             d' = setBus b { bus with
               wire := .attempt { addr := r.addr, what := .poll r.probeDue, orphan := false, carried := false }
               rows := bus.rows.map fun q =>
                 if q.addr = r.addr then { q with dueAt := none, probeDue := false } else q } d) ∧
           ((∀ r ∈ bus.rows, ¬mayGo r) →
             (bus.queue = [] → d' = d) ∧
             (∀ c rest, bus.queue = c :: rest →
               (bus.retries ≠ [] ∨ driving c.addr → d' = d) ∧
               (bus.retries = [] → ¬driving c.addr → d' = setBus b { bus with
                 queue := rest
                 wire := .attempt { addr := c.addr, what := .command c, orphan := false, carried := false } } d)))))))

/-- What a station does with a command it takes (R22 to R25): the maps of a zone switch, the relay, answers and
probe of a line driver, the lamp of a panel; everything else of the station stays. A press at a building's
marshal panel latches it unless a press is latched already (R25): the panel is the row of that kind, and where
the table has none yet the press stands under address 0, which is the model's choice (log entry 45, DEDUCED). A
measurement that runs leaves its finding; no other station and nothing of the device changes. With the buses
unpowered neither happens: R172 says that a press made during an outage is not seen, and that no press is
latched then, nor a measurement finished, is the model's choice (log entry 34). -/
def Obligations.StationsActOnCommandsAndTheirOwn : Prop :=
  (∀ (f : FieldStation) (shorted : Bool),
     (∀ m, stationTake (.stage m) shorted f = ({ f with staged := m }, none)) ∧
     stationTake .mute shorted f = ({ f with active := 0, staged := 0 }, none) ∧
     (∀ l, stationTake (.lamp l) shorted f = ({ f with lamp := l }, none)) ∧
     stationTake .probe shorted f = ({ f with probe := .running }, none) ∧
     (∀ (p : Polarity) (w : Nat) (g : FieldStation),
       g = { f with probe := if f.probe = .running then .none else f.probe } →
       (f.latch = p → stationTake (.impulse p w) shorted f = (g, some .already)) ∧
       (f.latch ≠ p → stationTake (.impulse p w) false f = ({ g with latch := p }, some .driven)) ∧
       (f.latch ≠ p → stationTake (.impulse p w) true f = (g, some .short)))) ∧
  ((∀ (b : Building) (addr : Nat) (s : State), isPowered s.tb = true →
     addr = (match rowOfKind s.dev.bus[b] .marshalPanel with
       | some r => r.addr
       | none => 0) →
     ∃ bus, exec (.buildingClearPress b) s = .next { s with dev := setBus b bus s.dev } ∧
       (∃ field, bus = { s.dev.bus[b] with field := field }) ∧
       fieldAt bus addr = { fieldAt s.dev.bus[b] addr with
         press := some ((fieldAt s.dev.bus[b] addr).press.getD s.tb.clock) } ∧
       (∀ a : Nat, a ≠ addr → fieldAt bus a = fieldAt s.dev.bus[b] a)) ∧
   (∀ (b : Building) (s : State), isPowered s.tb = false → exec (.buildingClearPress b) s = .next s) ∧
   (∀ (b : Building) (address : Nat) (found : Measured) (s : State),
     (isPowered s.tb = true → (fieldAt s.dev.bus[b] address).probe = .running →
       exec (.probeMeasurementEnd b address found) s =
         .next { s with dev := setBus b (setField s.dev.bus[b] { fieldAt s.dev.bus[b] address with
           probe := match found with | .ok n => .ok n | .lineOpen => .lineOpen | .short => .short }) s.dev }) ∧
     (isPowered s.tb = false ∨ (fieldAt s.dev.bus[b] address).probe ≠ .running →
       exec (.probeMeasurementEnd b address found) s = .next s)))

/-- STATION CONFIG (R26): the checks in their order, and what an accepted request makes of the building's rows and
queue; a new zone switch's row awaits its report (R97), and the owner of a removed station is told. Of a removed
station the queued commands end DISCARDED REMOVED, a transaction on the wires runs to the end of its attempt as
one whose station is gone, a probe poll that waits or is due ends NO RESULT for LC (R30), and TA or LC hears of
the removal. That a new row stands after those that are there, and that a transaction between two attempts ends
then, its command FAILED, is the model's choice (log entry 25), as it is that the NO RESULT carries no latch (log
entry 46) and that a driver's driving-until time goes with its row (log entry 52). -/
def Obligations.StationConfigKeepsTheTable : Prop :=
  ∀ (tag building address kind : Nat) (s : State), takesAtOnce s = true →
    let refused (res : Result) : Prop :=
      exec (.stationConfig tag building address kind) s =
        .next (replied tag (.stationConfig building address kind) res [] s)
    (s.dev.ah.hold = true → refused .refused) ∧
    (s.dev.ah.hold = false → (7 < building ∨ address < 1 ∨ 30 < address ∨ 3 < kind) → refused .range) ∧
    (s.dev.ah.hold = false → 1 ≤ address → address ≤ 30 → ∀ b : Building, b.1 = building →
      (∀ k : StationKind, stationKindCode k = kind →
        ((rowAt s.dev.bus[b] address).isSome ∨
            (match k with | .lineDriver => 2 | _ => 1) ≤ countKind s.dev.bus[b] k → refused .conflict) ∧
        (rowAt s.dev.bus[b] address = none →
          countKind s.dev.bus[b] k < (match k with | .lineDriver => 2 | _ => 1) →
          exec (.stationConfig tag building address kind) s =
            .next (replied tag (.stationConfig building address kind) .ok [] (settled s (push (.busStart b)
              (setBus b { s.dev.bus[b] with rows := (s.dev.bus[b]).rows ++
                [{ addr := address, kind := k, state := .unknown, fails := 0, lastHeard := none, unreported := false,
                   pollAt := none, dueAt := some s.tb.clock, probeAt := none, probeDue := false, probeRuns := 0,
                   lastPoll := none, drivingUntil := none }] }
                (if k = .zoneSwitch then setRow b { s.dev.ta.rows[b] with settling := .awaiting } s.dev
                 else s.dev))))))) ∧
      (kind = 3 →
        (rowAt s.dev.bus[b] address = none → refused .notFound) ∧
        (∀ r, rowAt s.dev.bus[b] address = some r →
          ∃ d, exec (.stationConfig tag building address kind) s =
              .next (replied tag (.stationConfig building address kind) .ok [] (settled s d)) ∧
            d = { setBus b { s.dev.bus[b] with
                rows := (s.dev.bus[b]).rows.filter fun q => q.addr != address
                queue := (s.dev.bus[b]).queue.filter fun c => c.addr != address
                retries := (s.dev.bus[b]).retries.filter fun t => t.addr != address
                wire := (match (s.dev.bus[b]).wire with
                  | .attempt t => .attempt (if t.addr = address then { t with orphan := true } else t)
                  | .applyMark => .applyMark
                  | .idle => .idle) } s.dev with
              agenda := s.dev.agenda ++
                ((s.dev.bus[b]).queue.filter fun c => c.addr == address).map
                  (fun c => Msg.cmdOutcome b c (.discarded .removed)) ++
                ((s.dev.bus[b]).retries.filter fun t => t.addr == address).flatMap (fun t => match t.what with
                  | .command c => [Msg.cmdOutcome b c .failed]
                  | .poll _ => []) ++
                (if r.probeAt.isSome = true ∨ r.probeDue = true then [Msg.probeResult b address .none none] else []) ++
                (match r.kind with
                 | .zoneSwitch => [Msg.switchLost b]
                 | .lineDriver => [Msg.driverView b address .absent]
                 | .marshalPanel => []) ++ [.busStart b] })))

/-- The ends of an attempt (R20): with the buses powered each is an event of its bus, and without an attempt on
the wires it changes nothing; unpowered it does not happen. A command's success at a configured station (R28,
R34): the station takes it, an UNKNOWN station is ONLINE without a report, which the answer of its pending poll
then owes (R37), and an OFFLINE one stays so with its count, and DONE goes to the owner with the answer and the
time; an impulse that was DRIVEN sets the driving-until time (R23), and PROBE the first probe poll, 2 s later
(R30). A failure (R35, R36): the count of an UNKNOWN or ONLINE station goes up by one, and the transaction is
attempted again while it does not exceed the limit; beyond it R36's steps follow in order: the station is OFFLINE,
FAILED goes to the command's owner, its queued commands leave, its polls are dropped, a probe poll with NO RESULT
(R30; that this carries no latch is the model's choice, log entry 46), TA or LC hears that its station is lost,
and STATION LOST is latched. A hold of busy over 200 ms is such a failure of a command already taken (R20, R23). A
failed attempt with an OFFLINE station leaves its count: a poll is due again 10 s later, a command is FAILED at
once and its station lost again (R29, R35, R36). An attempt that a RESTART carries leaves the station's row as the
reset put it and makes no retry; its outcome goes to the owner, or is held while the RESTART lasts, and an impulse
it drove sets the driving-until time (R41). That a carried poll's success delivers nothing and changes no row (log
entry 21, DEDUCED), and that a carried PROBE starts no probe poll (log entry 61), is the model's choice. A
transaction to a removed station runs to the end of its attempt: its command ends DONE or FAILED, without a retry,
and no row changes (R26). That a poll of it delivers nothing, its press being lost, and that its impulse records
no driving-until time, is the model's choice (log entries 49 and 52). -/
def Obligations.AttemptsEndAndTellTheOwner : Prop :=
  (∀ (b : Building) (shorted : Bool) (s : State),
     (isPowered s.tb = true →
       exec (.successfulAttempt b shorted) s = .next (settled s (attemptSucceeds (envOf s) b shorted s.dev)) ∧
       exec (.failedAttempt b) s = .next (settled s (attemptFails (envOf s) b s.dev)) ∧
       exec (.busyLimit b shorted) s = .next (settled s (attemptBusy (envOf s) b shorted s.dev))) ∧
     (isPowered s.tb = true → s.dev.agenda = [] → (∀ t, (s.dev.bus[b]).wire ≠ .attempt t) →
       exec (.successfulAttempt b shorted) s = .next s ∧ exec (.failedAttempt b) s = .next s ∧
         exec (.busyLimit b shorted) s = .next s) ∧
     (isPowered s.tb = false →
       exec (.successfulAttempt b shorted) s = .next s ∧ exec (.failedAttempt b) s = .next s ∧
         exec (.busyLimit b shorted) s = .next s)) ∧
  (∀ (e : Env) (b : Building) (shorted : Bool) (d : Dev) (addr : Nat) (c : Command) (r : Station),
     (d.bus[b]).wire = .attempt { addr := addr, what := .command c, orphan := false, carried := false } →
     rowAt d.bus[b] addr = some r →
     ∃ d', attemptSucceeds e b shorted d = d' ∧ (d'.bus[b]).wire = .idle ∧
       (d'.bus[b]).queue = (d.bus[b]).queue ∧
       fieldAt d'.bus[b] addr = (stationTake c.op shorted (fieldAt d.bus[b] addr)).1 ∧
       rowAt d'.bus[b] addr = some { r with
         state := if r.state = .unknown then .online else r.state
         unreported := r.unreported || decide (r.state = .unknown)
         fails := if r.state = .offline then r.fails else 0
         lastHeard := e.now
         drivingUntil := (match c.op, (stationTake c.op shorted (fieldAt d.bus[b] addr)).2 with
           | .impulse _ w, some .driven => some (e.clock + Config.msTicks w)
           | _, _ => r.drivingUntil)
         probeAt := if c.op = .probe then some (e.clock + 65536) else r.probeAt
         probeRuns := if c.op = .probe then 0 else r.probeRuns
         dueAt := if c.op = .probe ∧ r.probeDue = true then none else r.dueAt
         probeDue := if c.op = .probe then false else r.probeDue } ∧
       (∀ x : Building, x ≠ b → d'.bus[x] = d.bus[x]) ∧
       d'.agenda = d.agenda ++
         [Msg.cmdOutcome b c (CmdOutcome.done (stationTake c.op shorted (fieldAt d.bus[b] addr)).2 e.now), Msg.busStart b]) ∧
  (∀ (e : Env) (b : Building) (d : Dev) (t : Transaction) (r : Station),
     (d.bus[b]).wire = .attempt t → t.orphan = false → t.carried = false → rowAt d.bus[b] t.addr = some r →
     r.state ≠ .offline →
     (r.fails + 1 ≤ e.settings.retry[b] →
       ∃ q, rowAt (attemptFails e b d).bus[b] t.addr = some q ∧ q = { r with fails := r.fails + 1 } ∧
         ((attemptFails e b d).bus[b]).retries = (d.bus[b]).retries ++ [t] ∧
         ((attemptFails e b d).bus[b]).queue = (d.bus[b]).queue ∧ ((attemptFails e b d).bus[b]).wire = .idle ∧
         (attemptFails e b d).conds = d.conds) ∧
     (e.settings.retry[b] < r.fails + 1 →
       (attemptFails e b d).agenda = d.agenda ++
         (match t.what with
          | .command c => [Msg.cmdOutcome b c .failed]
          | .poll _ => []) ++
         ((d.bus[b]).queue.filter fun c => c.addr == t.addr).map
           (fun c => Msg.cmdOutcome b c (.discarded .stationLost)) ++
         (if r.probeAt.isSome = true ∨ r.probeDue = true ∨ t.what = .poll true then
           [Msg.probeResult b t.addr .none none] else []) ++
         (match r.kind with
          | .zoneSwitch => [Msg.switchLost b]
          | .lineDriver => [Msg.driverView b t.addr .offline]
          | .marshalPanel => []) ++ [Msg.busStart b] ∧
       rowAt (attemptFails e b d).bus[b] t.addr = some { r with
           state := .offline, fails := r.fails + 1, unreported := false, pollAt := some (e.clock + 10 * 32768)
           dueAt := none, probeAt := none, probeDue := false
           lastPoll := (match t.what with | .poll _ => some e.clock | .command _ => r.lastPoll) } ∧
         ((attemptFails e b d).bus[b]).retries = (d.bus[b]).retries ∧
         ((attemptFails e b d).bus[b]).queue = (d.bus[b]).queue.filter (fun c => c.addr != t.addr) ∧
         ((attemptFails e b d).bus[b]).wire = .idle ∧
         condHas (attemptFails e b d).conds .stationLost = true)) ∧
  (∀ (e : Env) (b : Building) (shorted : Bool) (d : Dev) (t : Transaction), (d.bus[b]).wire = .attempt t →
     (∀ probe, t.what = .poll probe → attemptBusy e b shorted d = attemptFails e b d) ∧
     (∀ c, t.what = .command c → ∃ field : List FieldStation,
       attemptBusy e b shorted d = setBus b { (attemptFails e b d).bus[b] with field := field } (attemptFails e b d) ∧
       fieldAt (attemptBusy e b shorted d).bus[b] t.addr =
         (stationTake c.op shorted (fieldAt d.bus[b] t.addr)).1)) ∧
  (∀ (e : Env) (b : Building) (d d' : Dev) (t : Transaction) (r : Station), attemptFails e b d = d' →
     (d.bus[b]).wire = .attempt t → t.orphan = false → t.carried = false → rowAt d.bus[b] t.addr = some r →
     r.state = .offline →
     (d'.bus[b]).wire = .idle ∧ (d'.bus[b]).retries = (d.bus[b]).retries ∧
     (∃ q, rowAt d'.bus[b] t.addr = some q ∧ q.state = .offline ∧ q.fails = r.fails ∧
       q.pollAt = some (e.clock + 10 * 32768)) ∧
     (∀ probe, t.what = .poll probe → (d'.bus[b]).queue = (d.bus[b]).queue ∧ d'.conds = d.conds ∧
       d'.agenda = d.agenda ++ [Msg.busStart b]) ∧
     (∀ c, t.what = .command c →
       (d'.bus[b]).queue = (d.bus[b]).queue.filter (fun x => x.addr != t.addr) ∧
       d'.agenda = d.agenda ++ [Msg.cmdOutcome b c .failed] ++
         ((d.bus[b]).queue.filter fun x => x.addr == t.addr).map
           (fun x => Msg.cmdOutcome b x (.discarded .stationLost)) ++
         (if r.probeAt.isSome = true ∨ r.probeDue = true then [Msg.probeResult b t.addr .none none] else []) ++
         (match r.kind with
          | .zoneSwitch => [Msg.switchLost b]
          | .lineDriver => [Msg.driverView b t.addr .offline]
          | .marshalPanel => []) ++ [Msg.busStart b] ∧
       condHas d'.conds .stationLost = true)) ∧
  (∀ (e : Env) (b : Building) (shorted : Bool) (d : Dev) (t : Transaction), (d.bus[b]).wire = .attempt t →
     let told (o : CmdOutcome) (c : Command) (d' : Dev) : Prop :=
       (e.running = true → d'.agenda = d.agenda ++ [Msg.cmdOutcome b c o, Msg.busStart b] ∧
         (d'.bus[b]).heldOut = (d.bus[b]).heldOut) ∧
       (e.running = false → d'.agenda = d.agenda ++ [Msg.busStart b] ∧
         (d'.bus[b]).heldOut = (d.bus[b]).heldOut ++ [(c, o)])
     let stays (d' : Dev) : Prop := (d'.bus[b]).wire = .idle ∧ (d'.bus[b]).queue = (d.bus[b]).queue ∧
       (d'.bus[b]).retries = (d.bus[b]).retries ∧ d'.conds = d.conds ∧
       ∀ r, rowAt d.bus[b] t.addr = some r → ∃ q, rowAt d'.bus[b] t.addr = some q ∧
         q = { r with drivingUntil := q.drivingUntil }
     (t.carried = true →
       stays (attemptFails e b d) ∧ stays (attemptSucceeds e b shorted d) ∧
       (∀ probe, t.what = .poll probe → (attemptFails e b d).agenda = d.agenda ++ [Msg.busStart b] ∧
         (attemptSucceeds e b shorted d).agenda = d.agenda ++ [Msg.busStart b]) ∧
       (∀ c, t.what = .command c → told .failed c (attemptFails e b d) ∧
         told (CmdOutcome.done (stationTake c.op shorted (fieldAt d.bus[b] t.addr)).2 e.now) c (attemptSucceeds e b shorted d) ∧
         ∀ p w r, c.op = .impulse p w → (stationTake c.op shorted (fieldAt d.bus[b] t.addr)).2 = some .driven →
           rowAt d.bus[b] t.addr = some r → ∃ q, rowAt (attemptSucceeds e b shorted d).bus[b] t.addr = some q ∧
             q.drivingUntil = some (e.clock + Config.msTicks w))) ∧
     (t.carried = false → t.orphan = true →
       stays (attemptFails e b d) ∧ stays (attemptSucceeds e b shorted d) ∧
       (∀ addr : Nat, rowAt (attemptSucceeds e b shorted d).bus[b] addr = rowAt d.bus[b] addr) ∧
       (∀ probe, t.what = .poll probe → (attemptFails e b d).agenda = d.agenda ++ [Msg.busStart b] ∧
         (attemptSucceeds e b shorted d).agenda = d.agenda ++ [Msg.busStart b] ∧
         fieldAt (attemptSucceeds e b shorted d).bus[b] t.addr = { fieldAt d.bus[b] t.addr with press := none }) ∧
       ∀ c, t.what = .command c →
         (attemptFails e b d).agenda = d.agenda ++ [Msg.cmdOutcome b c .failed, Msg.busStart b] ∧
         (attemptSucceeds e b shorted d).agenda = d.agenda ++
           [Msg.cmdOutcome b c (CmdOutcome.done (stationTake c.op shorted (fieldAt d.bus[b] t.addr)).2 e.now), Msg.busStart b] ∧
         fieldAt (attemptSucceeds e b shorted d).bus[b] t.addr =
           (stationTake c.op shorted (fieldAt d.bus[b] t.addr)).1))

/-- The apply mark, a poll that falls due and a driving-until time (R21, R23, R29, R33): each acts on its own bus;
of a scheduled poll and a probe poll that both wait, the earlier falls due. With the buses powered the end of a
poll's attempt is an event of its bus, a hold of busy over 200 ms being a failure (R20). A poll that succeeds at a
configured station (R28, R29, R30, R37): the station is ONLINE with count 0, its time of reply is kept, a press is
read and cleared (R25), one that a marshal made before the panel had a row with it (log entry 45), and its answer
goes to the owner of the kind: a report to TA or LC when it was not ONLINE or no report had been made, a probe
poll's finding to LC, a panel's answer to DC and to AH; a station that was OFFLINE latches STATION RETURNED. A
probe poll answered RUNNING is repeated 1 s later, five times at most, and the next one is NO RESULT. That this is
the sixth RUNNING answer in all, that an apply mark asked for during the mark stays pending, that a RUNNING answer
delivers no latch, and that DC takes a panel's answer before AH, is the model's choice (log entries 16, 19, 46 and
53). A drill-fast or alarm-fast flag that is set or cleared moves the next poll of an ONLINE panel that waits
(R29): with a flag set it comes no later than 2 s after the last poll, and with both clear 30 s after it, at once
where that moment has passed; a flag that is so already changes nothing. -/
def Obligations.MarksAndPollsOnTheBus : Prop :=
  (∀ (b : Building) (address : Nat) (s : State),
    (isPowered s.tb = true →
      ((s.dev.bus[b]).wire = .applyMark →
        exec (.applyMark b) s = .next (settled s (pushAll [.applySent b, .busStart b]
          (setBus b { s.dev.bus[b] with
            wire := .idle
            field := (s.dev.bus[b]).field.map fun f =>
              if (s.dev.bus[b]).rows.any (fun r => r.addr == f.addr && r.kind != .zoneSwitch) then f
              else { f with active := f.staged } } s.dev)))) ∧
      ((s.dev.bus[b]).wire ≠ .applyMark → exec (.applyMark b) s = .next (settled s s.dev)) ∧
      exec (.drivingUntil b address) s = .next (settled s (push (.busStart b) (setBus b { s.dev.bus[b] with
        rows := (s.dev.bus[b]).rows.map fun r => if r.addr = address then { r with drivingUntil := none } else r }
        s.dev)))) ∧
    (isPowered s.tb = false →
      exec (.applyMark b) s = .next s ∧ exec (.drivingUntil b address) s = .next s) ∧
    (isRunning s.tb = true →
      let at_ (r : Station) : Option Nat := some (r.dueAt.getD s.tb.clock)
      let due (r : Station) : Station := (match r.probeAt, r.pollAt with
        | none, none => r
        | none, some _ => { r with pollAt := none, dueAt := at_ r }
        | some t, u =>
          if u.any (fun u => decide (u < t)) then { r with pollAt := none, dueAt := at_ r }
          else { r with probeAt := none, probeDue := true, dueAt := at_ r })
      exec (.pollDue b address) s = .next (settled s (push (.busStart b) (setBus b { s.dev.bus[b] with
        rows := (s.dev.bus[b]).rows.map fun r => if r.addr = address then due r else r } s.dev)))) ∧
    (isRunning s.tb = false → exec (.pollDue b address) s = .next s)) ∧
  (∀ (b : Building) (shorted probe : Bool) (s : State) (t : Transaction), isPowered s.tb = true →
     (s.dev.bus[b]).wire = .attempt t → t.what = .poll probe →
     exec (.successfulAttempt b shorted) s = .next (settled s (attemptSucceeds (envOf s) b shorted s.dev)) ∧
     exec (.failedAttempt b) s = .next (settled s (attemptFails (envOf s) b s.dev)) ∧
     exec (.busyLimit b shorted) s = .next (settled s (attemptFails (envOf s) b s.dev))) ∧
  (∀ (e : Env) (b : Building) (shorted probe : Bool) (d : Dev) (addr : Nat) (r : Station) (f : FieldStation),
     (d.bus[b]).wire = .attempt { addr := addr, what := .poll probe, orphan := false, carried := false } →
     rowAt d.bus[b] addr = some r → fieldAt d.bus[b] addr = f →
     let pressed : Option Nat := (match f.press, (fieldAt d.bus[b] 0).press with
       | some t, some u => some (min t u)
       | some t, none => some t
       | none, u => u)
     ∃ d', attemptSucceeds e b shorted d = d' ∧ (d'.bus[b]).wire = .idle ∧ (d'.bus[b]).queue = (d.bus[b]).queue ∧
       (d'.bus[b]).retries = (d.bus[b]).retries ∧ fieldAt d'.bus[b] addr = { f with press := none } ∧
       (r.kind = .marshalPanel → (fieldAt d'.bus[b] 0).press = none) ∧
       (r.kind ≠ .marshalPanel → addr ≠ 0 → fieldAt d'.bus[b] 0 = fieldAt d.bus[b] 0) ∧
       (∀ x : Building, x ≠ b → d'.bus[x] = d.bus[x]) ∧
       rowAt d'.bus[b] addr = some { r with
         state := .online, fails := 0, lastHeard := e.now, unreported := false, lastPoll := some e.clock
         pollAt := (match r.kind with
           | .marshalPanel =>
             some (e.clock + if (d.bus[b]).drillFast || (d.bus[b]).alarmFast then 65536 else 983040)
           | _ => none)
         probeAt := if probe = true ∧ f.probe = .running ∧ r.probeRuns < 5 then some (e.clock + 32768) else r.probeAt
         probeRuns :=
           if probe = true ∧ f.probe = .running ∧ r.probeRuns < 5 then r.probeRuns + 1 else r.probeRuns } ∧
       d'.conds = (if r.state = .offline then d.conds ||| 0x10 else d.conds) ∧
       d'.agenda = d.agenda ++
         (match r.kind with
          | .zoneSwitch => if r.state ≠ .online ∨ r.unreported = true then [Msg.switchReport b f.active] else []
          | .lineDriver =>
            (if r.state ≠ .online ∨ r.unreported = true then [Msg.driverOnline b addr f.latch] else []) ++
              (if probe = true then
                 match f.probe with
                 | .none => [Msg.probeResult b addr .none (some f.latch)]
                 | .running =>
                   if r.probeRuns < 5 then [] else [Msg.probeResult b addr .none (some f.latch)]
                 | .ok n => [Msg.probeResult b addr (.ok n) (some f.latch)]
                 | .lineOpen => [Msg.probeResult b addr .lineOpen (some f.latch)]
                 | .short => [Msg.probeResult b addr .short (some f.latch)]
               else [])
          | .marshalPanel =>
            [Msg.panelReport false b (pressed.map fun t => min 250 ((e.clock - t) / 32768)) f.lamp e.now,
              Msg.panelReport true b (pressed.map fun t => min 250 ((e.clock - t) / 32768)) f.lamp e.now]) ++
         [.busStart b]) ∧
  (∀ (e : Env) (b : Building) (v drill : Bool) (d d' : Dev) (bus : Bus), d.bus[b] = bus →
     d' = (if drill then setDrillFast e b v d else setAlarmFast e b v d) →
     let was : Bool := if drill then bus.drillFast else bus.alarmFast
     let other : Bool := if drill then bus.alarmFast else bus.drillFast
     (was = v → d' = d) ∧
     (was ≠ v → ∃ rows : List Station, d' = push (.busStart b) (setBus b { bus with
         drillFast := if drill then v else bus.drillFast, alarmFast := if drill then bus.alarmFast else v
         rows := rows } d) ∧ rows.length = bus.rows.length ∧
       ∀ (i : Nat) (r q : Station), bus.rows[i]? = some r → rows[i]? = some q →
         let due : Station := { r with pollAt := none, dueAt := some (r.dueAt.getD e.clock) }
         (r.kind ≠ .marshalPanel ∨ r.state ≠ .online ∨ r.pollAt = none → q = r) ∧
         (∀ t last, r.kind = .marshalPanel → r.state = .online → r.pollAt = some t → r.lastPoll = some last →
           (v = true ∨ other = true →
             (t ≤ last + 65536 → q = r) ∧
             (last + 65536 < t → last + 65536 ≤ e.clock → q = due) ∧
             (last + 65536 < t → e.clock < last + 65536 → q = { r with pollAt := some (last + 65536) })) ∧
           (v = false → other = false →
             (last + 983040 ≤ e.clock → q = due) ∧
             (e.clock < last + 983040 → q = { r with pollAt := some (last + 983040) })))))

/-- Whatever the step, a command queue holds at most 6 commands in NORMAL mode, and in ALARM mode at most 2, none of
them a STAGE (R31, R38); and no collection outgrows its limit: 96 entries in a plan, 40 exception rows, 8 runs
on the wait list, 12 requests in the announcement queue, 8 finished records, 8 records in the store (R65, R69,
R112, R123, R133, R158). -/
def Obligations.EveryStepKeepsQueuesAndCollections : Prop :=
  (∀ s t : State, queuesLawful s.dev = true → step s = .next t → queuesLawful t.dev = true) ∧
  (∀ s t : State, capsLawful s.dev = true → step s = .next t → capsLawful t.dev = true)

/-! ## Clock lines (chapter 3) -/

/-- The state of a line is the first of R44's table that holds, from the target, gap and lead of R46. A line in
ADVANCE with nothing in flight and its pace count at R issues IMPULSE of the opposite polarity, and any other
line does not (R48). A confirmed impulse moves the dials one step, unless the step has been counted already
(R50). An impulse that the queue refuses leaves the line as it is, or loses its driver (R49). Of an impulse's
outcome (R51, R52), DRIVEN and ALREADY confirm it, SHORT is a LINE FAULT, FAILED and DISCARDED take it out of
flight, and the first two of those lose the driver. A driver lost ends a probe NO RESULT, and a report of its
latch confirms the dials (R56, R57). A probe's finding sets or ends the fault and latches LINE FAULT where there
was none (R54). Which line hears of a driver is the lowest that names it, and an outcome for a line that has
been configured anew is dropped: the model's choice (log entry 30). -/
def Obligations.LinesFollowTheirTarget : Prop :=
  (∀ (now : Option Stamp) (l : Line),
     (l.enabled = false → lineStateOf now l = .disabled) ∧
     (l.enabled = true →
       (l.pos = none → lineStateOf now l = .unset) ∧
       (∀ p, l.pos = some p →
         (l.view ≠ .online → lineStateOf now l = .offline) ∧
         (l.view = .online →
           (l.probe.isSome = true → lineStateOf now l = .probe) ∧
           (l.probe = none →
             (l.fault.isSome = true → lineStateOf now l = .fault) ∧
             (l.fault = none →
               (now = none → lineStateOf now l = .noTime) ∧
               (∀ t g, now = some t → p < l.span →
                 (g : Int) = ((t.sec / 60 % l.span : Nat) - (p : Int)) % l.span →
                 lineStateOf now l =
                   if g = 0 then .run else if l.span - g ≤ l.hold then .hold else .advance))))))) ∧
  (∀ (e : Env) (i : LineNo) (d : Dev) (l : Line), d.lines[i] = some l →
     (l.state ≠ .advance ∨ l.inFlight.isSome = true ∨ l.pace < l.catchUp ∨ l.pol = none →
       tryIssue e i d = d) ∧
     (l.state = .advance → l.inFlight = none → l.catchUp ≤ l.pace → ∀ (p : Polarity) (n : Nat) (d' : Dev),
       l.pol = some p →
       enqueue l.building l.addr (.impulse (if p = .pos then .neg else .pos) l.width) (.lc i) d = (.accepted n, d') →
       tryIssue e i d =
         setLine i (some { l with inFlight := some (if p = .pos then .neg else .pos), pace := 0 }) d')) ∧
  (∀ (p : Polarity) (l : Line) (n : Nat), l.pos = some n →
     (l.pol ≠ some p → confirm p l =
       { l with pos := some ((n + 1) % l.span), pol := some p, counter := l.counter + 1 }) ∧
     (l.pol = some p → confirm p l = l)) ∧
  (∀ (e : Env) (i : LineNo) (d : Dev) (l : Line), d.lines[i] = some l →
     let write (x : Line) (y : Dev) : Dev := setLine i (some x) y
     let restated (x : Line) : Line := { x with state := lineStateOf e.now x }
     let flip (p : Polarity) : Polarity := if p = .pos then .neg else .pos
     evaluate e i d = tryIssue e i (write (restated l) d) ∧
     (∀ p, l.state = .advance → l.inFlight = none → l.catchUp ≤ l.pace → l.pol = some p →
       let asked : EnqAnswer := (enqueue l.building l.addr (.impulse (flip p) l.width) (.lc i) d).1
       (asked = .queueFull ∨ asked = .notAccepted → tryIssue e i d = d) ∧
       (asked = .stationOffline → tryIssue e i d = write (restated { l with view := .offline }) d) ∧
       (asked = .notConfigured → tryIssue e i d = write (restated { l with view := .absent }) d)) ∧
     (∀ (p : Polarity) (at_ : Option Stamp),
       (∀ ans, ans = some .driven ∨ ans = some .already → impulseOutcome e i p (.done ans at_) d =
         tryProbe e i (evaluate e i (write { confirm p l with inFlight := none } d))) ∧
       impulseOutcome e i p (.done (some .short) at_) d = tryProbe e i (evaluate e i
         (write { l with inFlight := none, fault := some .impulseShort, faultWait := 0 } (latch .lineFault d))) ∧
       (∀ o, o = .failed ∨ o = .discarded .stationLost →
         impulseOutcome e i p o d = loseDriver e i .offline (write { l with inFlight := none } d)) ∧
       impulseOutcome e i p (.discarded .removed) d = loseDriver e i .absent (write { l with inFlight := none } d) ∧
       impulseOutcome e i p (.discarded .alarmMode) d =
         tryProbe e i (evaluate e i (write { l with inFlight := none } d))) ∧
     (∀ v : DriverView,
       (l.probe = none → loseDriver e i v d = evaluate e i (write { l with view := v } d)) ∧
       (l.probe.isSome = true → loseDriver e i v d = endProbe e i .none (write { l with view := v } d))) ∧
     (∀ r : ProbeResult, endProbe e i r d = evaluate e i (write
       { l with
         lastProbe := r, lastProbeAt := e.now, probe := none, faultWait := 0
         fault := (match r with
           | .ok _ => none
           | .lineOpen => some .probeOpen
           | .short => some .probeShort
           | .none => l.fault) }
       (if (r = .lineOpen ∨ r = .short) ∧ l.fault = none then latch .lineFault d else d))) ∧
     (∀ origin stage, l.probe = some (origin, stage) →
       let asked : EnqAnswer × Dev := enqueue l.building l.addr .probe (.lc i) d
       (stage ≠ .pending ∨ l.inFlight.isSome = true → tryProbe e i d = d) ∧
       (stage = .pending → l.inFlight = none →
         (∀ n, asked.1 = .accepted n → tryProbe e i d = write { l with probe := some (origin, .sent) } asked.2) ∧
         (asked.1 = .queueFull ∨ asked.1 = .notAccepted → tryProbe e i d = d) ∧
         (asked.1 = .stationOffline → tryProbe e i d = loseDriver e i .offline d) ∧
         (asked.1 = .notConfigured → tryProbe e i d = loseDriver e i .absent d)) ∧
       (∀ o : CmdOutcome, (stage ≠ .sent → probeOutcome e i o d = d) ∧
         (stage = .sent →
           (∀ ans at_, o = .done ans at_ → probeOutcome e i o d = write { l with probe := some (origin, .reading) } d) ∧
           (o = .failed ∨ o = .discarded .stationLost → probeOutcome e i o d = loseDriver e i .offline d) ∧
           (o = .discarded .removed → probeOutcome e i o d = loseDriver e i .absent d) ∧
           (o = .discarded .alarmMode → probeOutcome e i o d = endProbe e i .none d)))) ∧
     (l.probe = none → tryProbe e i d = d) ∧
     (∀ (b : Building) (c : Command) (o : CmdOutcome),
       (l.building ≠ b ∨ l.addr ≠ c.addr → takeLcOutcome e b i c o d = d) ∧
       (l.building = b → l.addr = c.addr →
         (∀ p w, c.op = .impulse p w → takeLcOutcome e b i c o d = impulseOutcome e i p o d) ∧
         (c.op = .probe → takeLcOutcome e b i c o d = probeOutcome e i o d))) ∧
     ((∀ (j : LineNo) (z : Line), j < i → d.lines[j] = some z → ¬(z.building = l.building ∧ z.addr = l.addr)) →
       (∀ p : Polarity, driverReports e l.building l.addr p d =
         evaluate e i (write { confirm p l with latch := some p, view := .online } d)) ∧
       (∀ v : DriverView, driverGone e l.building l.addr v d = loseDriver e i v d) ∧
       ∀ (r : ProbeResult) (latched : Option Polarity) (x : Line),
         x = { l with latch := (match latched with | some p => some p | none => l.latch) } →
         (∀ origin, l.probe = some (origin, .reading) →
           probeFound e l.building l.addr r latched d = endProbe e i r (write x d)) ∧
         ((∀ origin, l.probe ≠ some (origin, .reading)) →
           probeFound e l.building l.addr r latched d = write x d))) ∧
  (∀ (e : Env) (b : Building) (addr : Nat) (d : Dev),
     (∀ (j : LineNo) (z : Line), d.lines[j] = some z → ¬(z.building = b ∧ z.addr = addr)) →
     (∀ p, driverReports e b addr p d = d) ∧ (∀ v, driverGone e b addr v d = d) ∧
       ∀ r latched, probeFound e b addr r latched d = d)

/-- LINE CONFIG of a driver (R42): the checks in their order, with the defaults, and the record written afresh
with LINE UNSET latched and the line evaluated. An absent dial span is no span of a dial (log entry 36). DIAL SET
(R45): the checks, and position, set position, polarity and counter from the reading, after which the line is
evaluated. LINE ENABLE, LINE DISABLE and LINE PROBE (R43, R53): the checks in their order, and what each sets
going; DISABLE ends a PENDING probe with result NONE, stamped as R54 has it, and changes nothing else. That
DISABLE re-evaluates the line's state at once is the model's choice (log entry 29). -/
def Obligations.LineRequests : Prop :=
  (∀ (tag line building address : Nat) (span hold catchUp width : Option Nat) (s : State), takesAtOnce s = true →
     let ask : Request := .lineConfig line building address span hold catchUp width
     let answered (res : Result) : Prop :=
       exec (.lineConfig tag line building address span hold catchUp width) s = .next (replied tag ask res [] s)
     let h : Nat := hold.getD 60
     let r : Nat := catchUp.getD 2
     let w : Nat := width.getD 500
     let fields : Prop :=
       (span = some 720 ∨ span = some 1440) ∧ 2 * h ≤ span.getD 0 ∧ 1 ≤ r ∧ r ≤ 10 ∧ 100 ≤ w ∧ w ≤ 2000 ∧
         w % 100 = 0 ∧ w < r * 1000
     (15 < line ∨ 7 < building ∨ 30 < address → answered .range) ∧
     (∀ (i : LineNo) (b : Building), i.1 = line → b.1 = building → 1 ≤ address → address ≤ 30 →
       (¬fields → answered .range) ∧
       (fields →
         ((s.dev.lines[i]).any (fun l => l.inFlight.isSome || l.probe.isSome) = true → answered .busy) ∧
         ((s.dev.lines[i]).any (fun l => l.inFlight.isSome || l.probe.isSome) = false →
           ((∀ q ∈ rowAt s.dev.bus[b] address, q.kind ≠ .lineDriver) → answered .notFound) ∧
           (∀ q, rowAt s.dev.bus[b] address = some q → q.kind = .lineDriver →
             ((∃ j, j ≠ i ∧ ∃ l, s.dev.lines[j] = some l ∧ l.building = b ∧ l.addr = address) → answered .conflict) ∧
             ((∀ j l, j ≠ i → s.dev.lines[j] = some l → ¬(l.building = b ∧ l.addr = address)) →
               exec (.lineConfig tag line building address span hold catchUp width) s =
                 .next (replied tag ask .ok [] (settled s (evaluate (envOf s) i (latch .lineUnset (setLine i (some
                   { building := b, addr := address, span := span.getD 0, hold := h, catchUp := r, width := w,
                     enabled := true, pos := none, setPos := none, pol := none, counter := 0, inFlight := none,
                     pace := 10, fault := none, faultWait := 0, probe := none, lastProbe := .none, lastProbeAt := none,
                     view := (match q.state with | .unknown => .unknown | .online => .online | .offline => .offline),
                     latch := none, state := .unset }) s.dev)))))))))) ∧
     (∀ (i : LineNo) (b : Building), i.1 = line → b.1 = building → address = 0 →
       (s.dev.lines[i] = none → answered .notFound) ∧
       (∀ l, s.dev.lines[i] = some l →
         (l.inFlight.isSome ∨ l.probe.isSome → answered .busy) ∧
         (l.inFlight = none ∧ l.probe = none →
           exec (.lineConfig tag line building address span hold catchUp width) s =
             .next (replied tag ask .ok [] { s with dev := setLine i none s.dev }))))) ∧
  (∀ (tag line hh mm : Nat) (s : State), takesAtOnce s = true →
     let answered (res : Result) : Prop :=
       exec (.dialSet tag line hh mm) s = .next (replied tag (.dialSet line hh mm) res [] s)
     (15 < line ∨ 23 < hh ∨ 59 < mm → answered .range) ∧
     (∀ i : LineNo, i.1 = line → hh ≤ 23 → mm ≤ 59 →
       (s.dev.lines[i] = none → answered .notFound) ∧
       (∀ l, s.dev.lines[i] = some l →
         (l.inFlight.isSome = true → answered .busy) ∧
         (l.inFlight = none → ∀ p, p = (hh * 60 + mm) % l.span →
           exec (.dialSet tag line hh mm) s = .next (replied tag (.dialSet line hh mm) .ok []
             (settled s (evaluate (envOf s) i (setLine i (some
               { l with pos := some p, setPos := some p, pol := some (if p % 2 = 1 then .pos else .neg), counter := 0 })
               s.dev)))))))) ∧
  (∀ (tag line : Nat) (s : State), takesAtOnce s = true →
     let answered (c : Instr) (r : Request) (res : Result) : Prop := exec c s = .next (replied tag r res [] s)
     (15 < line → answered (.lineEnable tag line) (.lineEnable line) .range ∧
       answered (.lineDisable tag line) (.lineDisable line) .range ∧
       answered (.lineProbe tag line) (.lineProbe line) .range) ∧
     (∀ i : LineNo, i.1 = line →
       (s.dev.lines[i] = none → answered (.lineEnable tag line) (.lineEnable line) .notFound ∧
         answered (.lineDisable tag line) (.lineDisable line) .notFound ∧
         answered (.lineProbe tag line) (.lineProbe line) .notFound) ∧
       (∀ l, s.dev.lines[i] = some l →
         exec (.lineEnable tag line) s = .next (replied tag (.lineEnable line) .ok []
           (settled s (evaluate (envOf s) i (setLine i (some { l with enabled := true }) s.dev)))) ∧
         (∀ off, off = (match l.probe with
             | some (_, .pending) => { l with
                 enabled := false, probe := none, lastProbe := .none, lastProbeAt := s.tb.time, faultWait := 0 }
             | _ => { l with enabled := false }) →
           exec (.lineDisable tag line) s = .next (replied tag (.lineDisable line) .ok []
             (settled s (evaluate (envOf s) i (setLine i (some off) s.dev)))) ∧
           evaluate (envOf s) i (setLine i (some off) s.dev) = setLine i (some { off with state := .disabled }) s.dev) ∧
         (l.state = .disabled ∨ l.state = .unset ∨ l.view ≠ .online →
           answered (.lineProbe tag line) (.lineProbe line) .refused) ∧
         (l.state ≠ .disabled → l.state ≠ .unset → l.view = .online →
           (l.probe.isSome = true → answered (.lineProbe tag line) (.lineProbe line) .busy) ∧
           (l.probe = none →
             exec (.lineProbe tag line) s = .next (replied tag (.lineProbe line) .ok []
               (settled s (tryProbe (envOf s) i (evaluate (envOf s) i
                 (setLine i (some { l with probe := some (.host, .pending) }) s.dev))))))))))

/-- Every line with a dial position stands at POS exactly when its position is odd, whatever the step (the second law
of R50), and its position lies on its dial. -/
def Obligations.EveryStepKeepsTheLinesLawful : Prop :=
  ∀ s t : State, linesLawful s.dev = true → step s = .next t → linesLawful t.dev = true

/-! ## Timetable and calendar (chapter 4) -/

/-- ENTRY ADD (R65): the checks in their order; an accepted entry takes a pool slot that no entry has (which one is
a free value, log entry 10), joins its plan after every entry at or before its time, takes its mark if the plan
is today's, and is answered with its index. ENTRY REMOVE and PLAN CLEAR (R66): the checks in their order, and
what leaves the plan. -/
def Obligations.EntryRequests : Prop :=
  (∀ (tag plan time : Nat) (kind : EntryArg) (zones : ZoneSet) (s : State), takesAtOnce s = true →
     let answered (res : Result) : Prop :=
       exec (.entryAdd tag plan time kind zones) s =
         .next (replied tag (.entryAdd plan time kind zones) res [] s)
     (15 < plan ∨ 86399 < time ∨ zones = 0 ∨ (∃ k, kind = .other k) ∨ (∃ n, kind = .ring n ∧ (n < 1 ∨ 32 < n)) ∨
       (∃ n q, kind = .clip n q ∧ (n < 1 ∨ 64 < n ∨ 1 < q)) → answered .range) ∧
     (∀ (p : PlanNo) (k : EntryKind), p.1 = plan → time ≤ 86399 → zones ≠ 0 →
       ((∃ n, kind = .ring n ∧ 1 ≤ n ∧ n ≤ 32 ∧ k = .ring n) ∨
         (∃ n, kind = .clip n 0 ∧ 1 ≤ n ∧ n ≤ 64 ∧ k = .clip n .normal) ∨
         (∃ n, kind = .clip n 1 ∧ 1 ≤ n ∧ n ≤ 64 ∧ k = .clip n .urgent)) →
       ((∃ x ∈ s.dev.tt.plans[p], x.time = time ∧ x.zones &&& zones ≠ 0) → answered .conflict) ∧
       ((∀ x ∈ s.dev.tt.plans[p], x.time = time → x.zones &&& zones = 0) →
         (96 ≤ (s.dev.tt.plans[p]).length ∨ freeSlots s.dev = [] → answered .full) ∧
         ((s.dev.tt.plans[p]).length < 96 → freeSlots s.dev ≠ [] →
           ∃ (slot : Nat) (t : State) (x : Entry), slot ∈ freeSlots s.dev ∧
             x = { slot := slot, time := time, kind := k, zones := zones
                   day := if s.dev.tt.todayPlan = some (.plan p) then
                       some { mark := (match s.dev.tt.highWater with
                                | some h => if h < time then .pending else .missed
                                | none => .pending), late := false, pass := none }
                     else none } ∧
             exec (.entryAdd tag plan time kind zones) s =
               .next (replied tag (.entryAdd plan time kind zones) .ok
                 (num2 ((s.dev.tt.plans[p]).takeWhile fun y => decide (y.time ≤ time)).length) t) ∧
             t.tb = s.tb ∧ t.link = { s.link with rx := none } ∧
             t.dev = { s.dev with tt := { s.dev.tt with plans := t.dev.tt.plans }
                                  conds := t.dev.conds, drawn := t.dev.drawn } ∧
             t.dev.conds = (if markOf x = some .missed then s.dev.conds ||| 0x80 else s.dev.conds) ∧
             t.dev.tt.plans[p] = ((s.dev.tt.plans[p]).takeWhile fun y => decide (y.time ≤ time)) ++ x ::
               ((s.dev.tt.plans[p]).dropWhile fun y => decide (y.time ≤ time)) ∧
             (∀ q : PlanNo, q ≠ p → t.dev.tt.plans[q] = s.dev.tt.plans[q]))))) ∧
  (∀ (tag plan index : Nat) (s : State), takesAtOnce s = true →
     let answered (c : Instr) (r : Request) (res : Result) : Prop := exec c s = .next (replied tag r res [] s)
     (15 < plan → answered (.entryRemove tag plan index) (.entryRemove plan index) .range ∧
       answered (.planClear tag plan) (.planClear plan) .range) ∧
     (∀ p : PlanNo, p.1 = plan → ∀ l, s.dev.tt.plans[p] = l →
       (l.length ≤ index → answered (.entryRemove tag plan index) (.entryRemove plan index) .notFound) ∧
       (∀ x, l[index]? = some x →
         (s.dev.tt.todayPlan = some (.plan p) ∧ markOf x = some .sent →
           answered (.entryRemove tag plan index) (.entryRemove plan index) .busy) ∧
         (s.dev.tt.todayPlan ≠ some (.plan p) ∨ markOf x ≠ some .sent →
           exec (.entryRemove tag plan index) s = .next (replied tag (.entryRemove plan index) .ok []
             { s with dev := { s.dev with tt := { s.dev.tt with
                 plans := put s.dev.tt.plans p (l.eraseIdx index) } } }))) ∧
       (s.dev.tt.todayPlan = some (.plan p) ∧ (∃ x ∈ l, markOf x = some .sent) →
         answered (.planClear tag plan) (.planClear plan) .busy) ∧
       (s.dev.tt.todayPlan ≠ some (.plan p) ∨ (∀ x ∈ l, markOf x ≠ some .sent) →
         exec (.planClear tag plan) s = .next (replied tag (.planClear plan) .ok []
           { s with dev := { s.dev with tt := { s.dev.tt with plans := put s.dev.tt.plans p [] } } }))))

/-- WEEK SET, EXCEPTION ADD and EXCEPTION REMOVE (R68, R69, R70): the checks in their order, and the calendar after
them, with today resolved again (R73). A date is governed by the exception row that covers it, and by the week
map where none does (R71). -/
def Obligations.CalendarResolvesDates : Prop :=
  (∀ (tag : Nat) (s : State), takesAtOnce s = true →
     (∀ plans : Vector Nat 7,
       ((∃ i : Fin 7, 15 < plans[i] ∧ plans[i] ≠ 65535) →
         exec (.weekSet tag plans) s = .next (replied tag (.weekSet plans) .range [] s)) ∧
       ((∀ i : Fin 7, plans[i] ≤ 15 ∨ plans[i] = 65535) →
         ∃ tt, exec (.weekSet tag plans) s = .next (replied tag (.weekSet plans) .ok []
             { s with dev := reResolve { s.dev with tt := tt } }) ∧
           tt = { s.dev.tt with week := tt.week } ∧
           ∀ i : Fin 7, (plans[i] = 65535 → tt.week[i] = .none) ∧
             ∀ p : PlanNo, p.1 = plans[i] → tt.week[i] = .plan p)) ∧
     (∀ (first last plan : Nat),
       let answered (res : Result) : Prop :=
         exec (.exceptionAdd tag first last plan) s =
           .next (replied tag (.exceptionAdd first last plan) res [] s)
       (36524 < first ∨ 36524 < last ∨ last < first ∨ first + 366 < last ∨ (15 < plan ∧ plan ≠ 65535) →
         answered .range) ∧
       (∀ ref : PlanRef, (∃ p : PlanNo, p.1 = plan ∧ ref = .plan p) ∨ (plan = 65535 ∧ ref = .silent) →
         first ≤ 36524 → last ≤ 36524 → first ≤ last → last ≤ first + 366 →
         ((∃ q ∈ s.dev.tt.exceptions, q.first ≤ last ∧ first ≤ q.last) → answered .conflict) ∧
         ((∀ q ∈ s.dev.tt.exceptions, last < q.first ∨ q.last < first) →
           (40 ≤ s.dev.tt.exceptions.length → answered .full) ∧
           (s.dev.tt.exceptions.length < 40 →
             exec (.exceptionAdd tag first last plan) s =
               .next (replied tag (.exceptionAdd first last plan) .ok []
                 { s with dev := reResolve { s.dev with tt := { s.dev.tt with
                     exceptions := (s.dev.tt.exceptions.takeWhile fun q => decide (q.first < first)) ++
                       { first := first, last := last, plan := ref } ::
                         (s.dev.tt.exceptions.dropWhile fun q => decide (q.first < first)) } } }))))) ∧
     (∀ day : Nat,
       (36524 < day → exec (.exceptionRemove tag day) s = .next (replied tag (.exceptionRemove day) .range [] s)) ∧
       (day ≤ 36524 → (∀ q ∈ s.dev.tt.exceptions, q.first ≠ day) →
         exec (.exceptionRemove tag day) s = .next (replied tag (.exceptionRemove day) .notFound [] s)) ∧
       (day ≤ 36524 → (∃ q ∈ s.dev.tt.exceptions, q.first = day) →
         exec (.exceptionRemove tag day) s = .next (replied tag (.exceptionRemove day) .ok []
           { s with dev := reResolve { s.dev with tt := { s.dev.tt with
               exceptions := s.dev.tt.exceptions.filter fun q => q.first != day } } })))) ∧
  (∀ (d : Dev) (day : Nat),
     (∀ (before after : List ExceptionRow) (q : ExceptionRow), d.tt.exceptions = before ++ q :: after →
       (∀ x ∈ before, day < x.first ∨ x.last < day) → q.first ≤ day → day ≤ q.last → resolve d day = q.plan) ∧
     ((∀ x ∈ d.tt.exceptions, day < x.first ∨ x.last < day) →
       resolve d day = d.tt.week[(⟨(day + 5) % 7, Nat.mod_lt _ (by decide)⟩ : Fin 7)]))

/-- How entries of today's plan get their marks and fall due. A date is loaded with every mark PENDING (R72), and
today re-resolved with fresh marks by the high-water second, the marks of the plan that was today's being given
up (R73). A second event passes on what is PENDING at the new second (R75), after the step that it carries, if any; one
without a campus time, while time is INVALID, does nothing, and so does a step without an old time that changes no
date; what is passed is SUPPRESSED in the
hold, else marked by RS's or AM's answer (R75 to R77), and a later outcome is taken by the very pass that is
SENT (R76). A forward step passes what lies within the late window and misses the rest (R78), a backward one
does nothing (R79), a change of date loads it first (R80). At RESTORE what is PENDING in the passed stretch is
MISSED (R82). MISSED and PARTIAL latch RING MISSED (R74). That the stretch at RESTORE is in two parts only where
the shift was applied on the restore date, and its high-water second, are the model's readings of R82 (log
entries 33 and 36). That an entry SUPPRESSED in the hold keeps its late flag clear, however late the step that reached it,
is the model's choice (log entry 58). What AM does with the request of a CLIP entry, AnnounceRequests says. -/
def Obligations.EntriesFallDue : Prop :=
  (∀ (date sec : Nat) (d : Dev), ∃ plans,
     loadDate date sec d = { d with tt := { d.tt with
       plans := plans, today := some date, todayPlan := some (resolve d date), highWater := some sec } } ∧
     ∀ p : PlanNo,
       (resolve d date = .plan p → plans[p] = (d.tt.plans[p]).map fun x =>
         { x with day := some { mark := .pending, late := false, pass := none } }) ∧
       (resolve d date ≠ .plan p → plans[p] =
         if d.tt.todayPlan = some (.plan p) then (d.tt.plans[p]).map (fun x => { x with day := none })
         else d.tt.plans[p])) ∧
  (∀ (day : Nat) (d : Dev), d.tt.today = some day →
     (d.tt.todayPlan = some (resolve d day) → reResolve d = d) ∧
     (d.tt.todayPlan ≠ some (resolve d day) →
       (reResolve d).tt.todayPlan = some (resolve d day) ∧ (reResolve d).tt.highWater = d.tt.highWater ∧
       (∀ p, resolve d day = .plan p → (reResolve d).tt.plans[p] = (d.tt.plans[p]).map fun x => { x with
         day := some
           { mark := (match d.tt.highWater with | some h => if h < x.time then .pending else .missed | none => .pending)
             late := false, pass := none } }) ∧
       (∀ p, d.tt.todayPlan = some (.plan p) →
         (reResolve d).tt.plans[p] = (d.tt.plans[p]).map fun x => { x with day := none }) ∧
       (∀ p h, resolve d day = .plan p → d.tt.highWater = some h → (∃ x ∈ d.tt.plans[p], x.time ≤ h) →
         condHas (reResolve d).conds .ringMissed = true))) ∧
  (∀ (e : Env) (ev : SecondEvent) (t : Stamp) (d : Dev), ev.new = some t → ev.step = none →
     (ev.day = false → ttSecond e ev d = push (.ttDue t.sec)
       { d with tt := { d.tt with highWater := d.tt.highWater.map fun h => max h t.sec } }) ∧
     (ev.day = true → ∀ d1, d1 = loadDate t.day 0 d →
       ttSecond e ev d = push (.ttDue t.sec) { d1 with tt := { d1.tt with highWater := some t.sec } })) ∧
  (∀ (e : Env) (ev : SecondEvent) (d : Dev),
     (ev.new = none → ttSecond e ev d = d) ∧
     (∀ (t : Stamp) (st : TimeStep) (d1 d2 : Dev), ev.new = some t → ev.step = some st →
       d1 = (if ev.day then loadDate t.day 0 d else d) → d2 = ttStep e st d1 →
       ttSecond e ev d = push (.ttDue t.sec)
         { d2 with tt := { d2.tt with highWater := d2.tt.highWater.map fun h => max h t.sec } })) ∧
  (∀ (t : Stamp) (sec : Nat) (d : Dev) (p : PlanNo), d.tt.todayPlan = some (.plan p) →
     entriesDue (some t) sec d = pushAll (((d.tt.plans[p]).filter fun x =>
       decide (markOf x = some .pending ∧ x.time = sec)).map fun x => Msg.ttPass x.slot false t) d) ∧
  (∀ (e : Env) (slot : Nat) (late : Bool) (pass : Stamp) (d d' : Dev) (p : PlanNo) (x : Entry),
     d.tt.todayPlan = some (.plan p) → (d.tt.plans[p]).find? (fun y => y.slot == slot) = some x →
     passEntry e slot late pass d = d' →
     let marks (f : Entry → Entry) : Timetable :=
       { d.tt with plans := put d.tt.plans p ((d.tt.plans[p]).map fun y => if y.slot = slot then f y else y) }
     let marked (m : Mark) : Timetable :=
       marks fun y => { y with day := some { mark := m, late := late, pass := some pass } }
     let missed (c : CondSet) : CondSet := c ||| 0x80
     (markOf x ≠ some .pending → d' = d) ∧
     (markOf x = some .pending → d.ah.hold = true →
       d' = { d with tt := marks fun y => { y with day := y.day.map fun k => { k with mark := .suppressed } } }) ∧
     (markOf x = some .pending → d.ah.hold = false →
       (∀ n, x.kind = .ring n →
         (patternOf d n = [] → d' = { d with tt := marked (if late then .late else .rung) }) ∧
         (patternOf d n ≠ [] →
           ((∀ r : RunIx, ∃ run, d.rs.runs[r] = some run ∧ ¬(run.state = .done ∧ run.released = 0)) →
             d' = { d with tt := marked .missed, conds := missed d.conds }) ∧
           ((∃ r : RunIx, ∀ run, d.rs.runs[r] = some run → run.state = .done ∧ run.released = 0) →
             ∀ a d2, createRun e (.entry { plan := p, slot := slot, pass := pass }) n x.zones (some pass)
               { d with tt := marked .pending } = (a, d2) →
             (∀ r, a = .created r → d' = { d2 with tt := marked .sent }) ∧
             (∀ o, a = .outcome o → d' = { d2 with
               tt := marked (match o with
                 | .rung => if late then .late else .rung
                 | .partly => .partly
                 | .missed => .missed
                 | .suppressed => .suppressed)
               conds := if o = .partly ∨ o = .missed then missed d2.conds else d2.conds })))) ∧
       (∀ n u, x.kind = .clip n u →
         let prio : ReqPrio := (match u with | .normal => .normal | .urgent => .urgent)
         let queued : Prop := ∃ q ∈ d.am.queue, q.clip = n ∧ q.zones = x.zones ∧ q.prio = prio
         (clipLength d n = none → d' = { d with tt := marked .missed, conds := missed d.conds }) ∧
         ((clipLength d n).isSome = true →
           (queued ∨ d.am.queue.length < 12 → d' = { (clipEntry { plan := p, slot := slot, pass := pass } n x.zones u
               { d with tt := marked .pending }).2 with tt := marked .queuedClip } ∧ d'.conds = d.conds) ∧
           (¬queued → 12 ≤ d.am.queue.length →
             d' = { d with tt := marked .missed, conds := missed d.conds }))))) ∧
  (∀ (e : Env) (st : TimeStep) (d d' : Dev), ttStep e st d = d' →
     (st.dateChanged = false → st.old = none → d' = d) ∧
     (st.dateChanged = true → (∀ p, resolve d st.new.day ≠ .plan p) → d' = loadDate st.new.day st.new.sec d) ∧
     (∀ old, st.dateChanged = false → st.old = some old →
       (st.new.sec ≤ old.sec → d' = d) ∧
       (old.sec < st.new.sec → ∀ p, d.tt.todayPlan = some (.plan p) →
         let inSpan (x : Entry) : Bool :=
           decide (markOf x = some .pending ∧ old.sec < x.time ∧ x.time ≤ st.new.sec)
         let sounds (x : Entry) : Bool := decide (st.new.sec - x.time ≤ e.settings.lateWindow)
         d'.tt = { d.tt with
           highWater := d.tt.highWater.map fun h => max h st.new.sec
           plans := put d.tt.plans p ((d.tt.plans[p]).map fun x =>
             if inSpan x && !sounds x then { x with day := x.day.map fun k => { k with mark := .missed } } else x) } ∧
         ((∃ x ∈ d.tt.plans[p], (inSpan x && !sounds x) = true) → condHas d'.conds .ringMissed = true) ∧
         d'.agenda = d.agenda ++ ((d.tt.plans[p]).filter fun x => inSpan x && sounds x).map fun x =>
           Msg.ttPass x.slot (decide (x.time ≠ st.new.sec)) st.new)) ∧
     (∀ p, st.dateChanged = true → resolve d st.new.day = .plan p →
       d'.tt.today = some st.new.day ∧ d'.tt.todayPlan = some (.plan p) ∧ d'.tt.highWater = some st.new.sec ∧
       d'.tt.plans[p] = ((d.tt.plans[p]).map fun x => { x with
         day := some { mark := if x.time < st.new.sec then .missed else .pending, late := false, pass := none } }) ∧
       ((∃ x ∈ d.tt.plans[p], x.time < st.new.sec) → condHas d'.conds .ringMissed = true) ∧
       d'.agenda = d.agenda ++ ((d.tt.plans[p]).filter fun x => decide (x.time = st.new.sec)).map fun x =>
         Msg.ttPass x.slot false st.new)) ∧
  (∀ (ref : EntryRef) (o : RingOutcome) (d : Dev),
     (d.tt.todayPlan ≠ some (.plan ref.plan) → takeRingOutcome ref o d = d) ∧
     (d.tt.todayPlan = some (.plan ref.plan) → ∀ x k,
       (d.tt.plans[ref.plan]).find? (fun y => y.slot == ref.slot) = some x → x.day = some k →
       (k.mark ≠ .sent ∨ k.pass ≠ some ref.pass → takeRingOutcome ref o d = d) ∧
       (k.mark = .sent → k.pass = some ref.pass → takeRingOutcome ref o d = { d with
         tt := { d.tt with plans := put d.tt.plans ref.plan ((d.tt.plans[ref.plan]).map fun y =>
           if y.slot = ref.slot then { y with day := y.day.map fun m => { m with
             mark := (match o with
               | .rung => if k.late then .late else .rung
               | .partly => .partly
               | .missed => .missed
               | .suppressed => .suppressed) } }
           else y) }
         conds := if o = .partly ∨ o = .missed then d.conds ||| 0x80 else d.conds }))) ∧
  (∀ (ev : RestoreEvent) (d : Dev), (ev.now = none → ttRestore ev d = d) ∧
     ∀ (now : Stamp) (d1 : Dev) (p : PlanNo), ev.now = some now →
       d1 = (if ev.dateChanged then loadDate now.day now.sec d else d) → d1.tt.todayPlan = some (.plan p) →
       let after (time : Nat) : Bool := ev.dateChanged || ev.start.any fun s => decide (s.sec < time)
       let passed (time : Nat) : Bool :=
         match ev.shift with
         | some (old, new) =>
           if new.day = now.day ∧ new.sec < old.sec then
             (after time && decide (time ≤ old.sec)) || decide (new.sec < time ∧ time ≤ now.sec)
           else after time && decide (time ≤ now.sec)
         | none => after time && decide (time ≤ now.sec)
       (ttRestore ev d).tt = { d1.tt with
         highWater := d1.tt.highWater.map fun h => max h now.sec
         plans := put d1.tt.plans p ((d1.tt.plans[p]).map fun x =>
           if markOf x = some .pending ∧ passed x.time = true then
             { x with day := x.day.map fun k => { k with mark := .missed } }
           else x) } ∧
       ((∃ x ∈ d1.tt.plans[p], markOf x = some .pending ∧ passed x.time = true) →
         condHas (ttRestore ev d).conds .ringMissed = true))

/-! ## Zones and trunks (chapter 5) -/

/-- ZONE SET, QUIET SET and QUIET CLEAR (R84, R85): the checks in their order, and exactly the zones named change. A
quiet-until earlier than the new time of a second event is removed, and one that equals it stays (R86). That the
times are compared as dates, not around the calendar's wrap, is the model's choice (log entry 51, DEDUCED). -/
def Obligations.ZonesAndQuiets : Prop :=
  (∀ (tag : Nat) (zones : ZoneSet) (s : State), takesAtOnce s = true →
     let table (f : Zone → Zone) : State := { s with dev := { s.dev with ta := { s.dev.ta with
       zones := Vector.ofFn fun i : Fin 64 =>
         if zones.getLsbD i.1 then f s.dev.ta.zones[i] else s.dev.ta.zones[i] } } }
     (exec (.zoneSet tag zones 0) s =
       .next (replied tag (.zoneSet zones 0) .ok [] (table fun z => { z with enabled := true }))) ∧
     (exec (.zoneSet tag zones 1) s =
       .next (replied tag (.zoneSet zones 1) .ok [] (table fun z => { z with enabled := false }))) ∧
     (∀ v, 1 < v → exec (.zoneSet tag zones v) s = .next (replied tag (.zoneSet zones v) .range [] s)) ∧
     (exec (.quietClear tag zones) s =
       .next (replied tag (.quietClear zones) .ok [] (table fun z => { z with quiet := none }))) ∧
     (∀ until_ : Stamp,
       let answered (res : Result) : Prop :=
         exec (.quietSet tag zones until_) s = .next (replied tag (.quietSet zones until_) res [] s)
       (s.tb.time = none → answered .noTime) ∧
       (∀ now, s.tb.time = some now →
         let at_ (t : Stamp) : Nat := t.day * 86400 + t.sec
         let bad : Prop := 36524 < until_.day ∨ 86399 < until_.sec ∨ at_ until_ ≤ at_ now ∨ at_ now + 86400 < at_ until_
         let busy : Prop := ∃ (b : Building) (c : Claimant) (p : ClaimPrio),
           (s.dev.ta.rows[b]).holder = .claimant c p ∧ (p = .ring ∨ p = .normal) ∧
             zoneMap zones b &&& ((s.dev.ta.rows[b]).map ||| (s.dev.ta.rows[b]).applied |||
               (match (s.dev.ta.rows[b]).awaited with | some w => w.map | none => 0)) ≠ 0
         (bad → answered .range) ∧ (¬bad → busy → answered .busy) ∧
         (¬bad → ¬busy → exec (.quietSet tag zones until_) s =
           .next (replied tag (.quietSet zones until_) .ok [] (table fun z => { z with quiet := some until_ })))))) ∧
  (∀ (now : Stamp) (d : Dev) (i : Fin 64), (endQuiets now d).ta.zones[i] =
     { enabled := (d.ta.zones[i]).enabled
       quiet := (d.ta.zones[i]).quiet.filter fun t =>
         decide (now.day * 86400 + now.sec ≤ t.day * 86400 + t.sec) })

/-- A claim's zones in a building (R87): disabled zones go, quiet ones go for RING and NORMAL, and a building with
none left is excluded for being quiet if any of its zones was. The decision of a claim, in the order of R89's
table: a building whose zone switch is not configured or is OFFLINE cannot be reached, and DRILL ranks above URGENT,
URGENT above RING, RING above NORMAL. -/
def Obligations.ClaimsAreFilteredAndDecided : Prop :=
  (∀ (d : Dev) (prio : ClaimPrio) (b : Building) (m kept : ZoneMap),
     (∀ z : Fin 8, kept.getLsbD z.1 =
       (m.getLsbD z.1 && (d.ta.zones[zoneIndex b z]).enabled &&
         !(decide (prio = .ring ∨ prio = .normal) && (d.ta.zones[zoneIndex b z]).quiet.isSome))) →
     (kept ≠ 0 → filterMap d prio b m = .kept kept) ∧
     (kept = 0 →
       ((∃ z : Fin 8, m.getLsbD z.1 = true ∧ (d.ta.zones[zoneIndex b z]).enabled = true) →
         filterMap d prio b m = .quiet) ∧
       ((∀ z : Fin 8, m.getLsbD z.1 = true → (d.ta.zones[zoneIndex b z]).enabled = false) →
         filterMap d prio b m = .disabled))) ∧
  (∀ (d : Dev) (c : Claimant) (prio : ClaimPrio) (atDeadline : Bool) (b : Building) (row : Row),
     d.ta.rows[b] = row →
     let answer : ClaimAnswer := decideClaim d c prio atDeadline b
     let rank (p : ClaimPrio) : Nat := (match p with
       | .normal => 0
       | .ring => 1
       | .urgent => 2
       | .drill => 3)
     let reachable : Prop := ∃ r, (d.bus[b]).rows.find? (fun r => r.kind == .zoneSwitch) = some r ∧ r.state ≠ .offline
     (¬reachable → answer = .failed) ∧
     (reachable →
       (row.holder = .alarm → answer = .held .alarm) ∧
       (row.holder ≠ .alarm → row.settling ≠ .settled → answer = .held .settling) ∧
       (row.settling = .settled →
         (row.holder = .none → answer = .granted) ∧
         (∀ h hp, row.holder = .claimant h hp →
           (h = c → answer = .granted) ∧
           (h ≠ c →
             (hp = .drill → prio = .ring ∨ prio = .normal → answer = .held .drill) ∧
             (hp ≠ .drill ∨ (prio ≠ .ring ∧ prio ≠ .normal) →
               (prio = .ring → hp = .normal → atDeadline = false → answer = .wait) ∧
               (prio ≠ .ring ∨ hp ≠ .normal ∨ atDeadline = true →
                 (rank hp < rank prio → answer = .granted) ∧
                 (rank prio ≤ rank hp → answer = .held .priority))))))))

/-- What a granted building gets (R90): its row takes the claimant, priority and map, its STAGE is placed or, with
the queue full, waits to be placed (R92), and the barrier of a holder that loses it loses the building; the
claimant's own row stays. A claim in SINGLE mode decides each building on its own, by ascending number (the
model's choice, log entry 50), and grants each that it answers GRANTED in turn, with its filtered map. A holder
that loses a building, and was not releasing it, is told PREEMPTED (R90): the notices of a claim are delivered
together, before anything that one of them brings about, and before the checks of the barriers that it takes
members from, which come once for the whole claim (log entry 23). A claim in SET mode (R91) is granted whole, with
every building answered GRANTED granted in turn, or is HELD or left with none, and then nothing changes. A STAGE
that waits is tried again, and a switch that is lost loses the building (R92, R98). The outcome of the very STAGE
recorded confirms it, or loses the building (R93). -/
def Obligations.GrantsAndStages : Prop :=
  (∀ (c : Claimant) (prio : ClaimPrio) (b : Building) (m : ZoneMap) (d d' : Dev) (row : Row),
     d.ta.rows[b] = row → grantBuilding c prio b m d = d' →
     ((∃ p, row.holder = .claimant c p) → d' = d) ∧
     (∀ x : Building, x ≠ b → d'.ta.rows[x] = d.ta.rows[x] ∧ d'.bus[x] = d.bus[x]) ∧
     (row.holder = .none ∨ (∃ h p, row.holder = .claimant h p ∧ h ≠ c) → ∀ sw : Station,
       rowOfKind d.bus[b] .zoneSwitch = some sw → rowAt d.bus[b] sw.addr = some sw → sw.state ≠ .offline →
       (d.bus[b]).alarm = false →
       d'.ta.rows[b] = { row with
         holder := .claimant c prio, map := m, releasing := false, fired := false
         stage := some { map := m, owner := some c
                         phase := if (d.bus[b]).queue.length < 6 then .queued d.serial else .placing } } ∧
       d'.bus[b] = { d.bus[b] with queue := (d.bus[b]).queue ++
         if (d.bus[b]).queue.length < 6 then [{ addr := sw.addr, op := .stage m, owner := .ta, serial := d.serial }]
         else [] } ∧
       (∀ h p, row.holder = .claimant h p → row.releasing = false →
         barrierOf d' h = (barrierOf d h).map fun x => { x with members := bsRemove x.members b }) ∧
       d'.agenda = d.agenda ++ (if (d.bus[b]).queue.length < 6 then [.busStart b] else []) ∧
       (row.holder = .none ∨ row.releasing = true → d'.ta.barriers = d.ta.barriers))) ∧
  (∀ (c : Claimant) (prio : ClaimPrio) (atDeadline : Bool) (zones : ZoneSet) (which : List Building) (d d' : Dev)
      (as : Answers), which.Nodup → claimSingle c prio atDeadline zones which d = (as, d') →
     as = which.map (fun b => (b, (answerFor d c prio atDeadline zones b).2)) ∧
     (∃ (granted : Dev) (checks : List Msg) (told : List (Claimant × Building)),
       granted = which.foldl (fun x b => if (answerFor d c prio atDeadline zones b).2 = .granted then
         grantBuilding c prio b (answerFor d c prio atDeadline zones b).1 x else x) d ∧
       d' = pushAll ((if told = [] then [] else [.preempted told]) ++ checks) granted ∧
       (∀ (h : Claimant) (b : Building), (h, b) ∈ told ↔
         b ∈ which ∧ (answerFor d c prio atDeadline zones b).2 = .granted ∧ h ≠ c ∧
           (∃ p, (d.ta.rows[b]).holder = .claimant h p) ∧ (d.ta.rows[b]).releasing = false) ∧
       ∀ m, m ∈ checks ↔ ∃ x ∈ d.ta.barriers, x ∉ granted.ta.barriers ∧ m = .barrierCheck x.claimant) ∧
     ((∀ b ∈ which, (d.bus[b]).alarm = false ∧
         ∀ sw, rowOfKind d.bus[b] .zoneSwitch = some sw → rowAt d.bus[b] sw.addr = some sw) →
       ∃ (starts checks : List Msg) (told : List (Claimant × Building)),
         d'.agenda = d.agenda ++ starts ++ (if told = [] then [] else [.preempted told]) ++ checks ∧
         (∀ m ∈ starts, ∃ b, m = .busStart b) ∧ (∀ m ∈ checks, ∃ h, m = .barrierCheck h) ∧
         (∀ (h : Claimant) (b : Building), (h, b) ∈ told ↔
           b ∈ which ∧ (answerFor d c prio atDeadline zones b).2 = .granted ∧ h ≠ c ∧
             (∃ p, (d.ta.rows[b]).holder = .claimant h p) ∧ (d.ta.rows[b]).releasing = false) ∧
         ∀ h b, (h, b) ∈ told → ∀ x ∈ d.ta.barriers, x.claimant = h → bsHas x.members b = true →
           Msg.barrierCheck h ∈ checks) ∧
     ∀ b : Building,
       (b ∉ which ∨ (answerFor d c prio atDeadline zones b).2 ≠ .granted → d'.ta.rows[b] = d.ta.rows[b]) ∧
       (b ∈ which → (answerFor d c prio atDeadline zones b).2 = .granted → ∀ sw : Station,
         rowOfKind d.bus[b] .zoneSwitch = some sw → rowAt d.bus[b] sw.addr = some sw → (d.bus[b]).alarm = false →
         ∃ p, (d'.ta.rows[b]).holder = .claimant c p)) ∧
  (∀ (c : Claimant) (prio : ClaimPrio) (zones : ZoneSet) (d : Dev),
     let asked : List Building := bsList (zoneBuildings zones)
     let answer (b : Building) : ClaimAnswer := (answerFor d c prio false zones b).2
     let blocks (a : ClaimAnswer) : Prop := a = .wait ∨ ∃ r, a = .held r
     ((∃ b ∈ asked, blocks (answer b)) → ∃ as : Answers, claimSet c prio zones d = (.held, as, d) ∧
       ∀ b a, (b, a) ∈ as ↔ (b ∈ asked ∧ a = answer b ∧ a ≠ .granted)) ∧
     ((∀ b ∈ asked, ¬blocks (answer b)) →
       ((∃ b ∈ asked, answer b = .granted) →
         ∃ (d' : Dev) (checks : List Msg) (told : List (Claimant × Building)),
         claimSet c prio zones d = (.granted, asked.map (fun b => (b, answer b)),
           pushAll ((if told = [] then [] else [.preempted told]) ++ checks) d') ∧
         d' = asked.foldl (fun x b =>
           if answer b = .granted then grantBuilding c prio b (answerFor d c prio false zones b).1 x else x) d ∧
         (∀ (h : Claimant) (b : Building), (h, b) ∈ told ↔ b ∈ asked ∧ answer b = .granted ∧ h ≠ c ∧
           (∃ p, (d.ta.rows[b]).holder = .claimant h p) ∧ (d.ta.rows[b]).releasing = false) ∧
         ∀ m, m ∈ checks ↔ ∃ x ∈ d.ta.barriers, x ∉ d'.ta.barriers ∧ m = .barrierCheck x.claimant) ∧
       ((∀ b ∈ asked, answer b ≠ .granted) →
         claimSet c prio zones d = (.noneLeft, asked.map (fun b => (b, answer b)), d)))) ∧
  (∀ (b : Building) (d : Dev) (st : Stage), (d.ta.rows[b]).stage = some st →
     (st.phase ≠ .placing → tryStage b d = d) ∧
     (st.phase = .placing →
       (rowOfKind d.bus[b] .zoneSwitch = none → tryStage b d = loseBuilding b d) ∧
       (∀ sw : Station, rowOfKind d.bus[b] .zoneSwitch = some sw → rowAt d.bus[b] sw.addr = some sw →
         (sw.state = .offline ∨ (d.bus[b]).alarm = true → tryStage b d = loseBuilding b d) ∧
         (sw.state ≠ .offline → (d.bus[b]).alarm = false →
           (6 ≤ (d.bus[b]).queue.length → tryStage b d = d) ∧
           ((d.bus[b]).queue.length < 6 →
             (tryStage b d).ta.rows[b] =
               { d.ta.rows[b] with stage := some { st with phase := .queued d.serial } } ∧
             ((tryStage b d).bus[b]).queue = (d.bus[b]).queue ++
               [{ addr := sw.addr, op := .stage st.map, owner := .ta, serial := d.serial }]))))) ∧
  (∀ (b : Building) (c : Command) (o : CmdOutcome) (d : Dev) (row : Row) (st : Stage),
     d.ta.rows[b] = row → row.stage = some st →
     (st.phase ≠ .queued c.serial → takeStageOutcome b c o d = d) ∧
     (st.phase = .queued c.serial →
       (o = .failed ∨ o = .discarded .stationLost ∨ o = .discarded .removed →
         takeStageOutcome b c o d = loseBuilding b d) ∧
       (o = .discarded .alarmMode → takeStageOutcome b c o d = setRow b { row with stage := none } d) ∧
       (∀ ans at_, o = .done ans at_ →
         (∀ h, st.owner = some h → takeStageOutcome b c o d =
           push (.barrierCheck h) (setRow b { row with stage := some { st with phase := .confirmed } } d)) ∧
         (∀ h p, st.owner = none → row.holder = .claimant h p → takeStageOutcome b c o d =
           push (.busStart b) (setBus b { d.bus[b] with applyPending := true } (setRow b { row with
             stage := some { st with phase := .confirmed }, awaited := some { map := 0, release := some h } } d))))))

/-- Barriers, release, settling and loss. A holder's apply opens or extends its barrier with what it holds and is
not releasing (R94); a barrier whose members are all confirmed fires: their sources are set, their maps awaited
and apply marks requested, and STARTED names them, one whose switch is gone being lost (R95); an empty one is
STARTED {}. A release silences the source and stages {} without an owner (R96), of several buildings by
ascending number (the model's choice, log entry 50); they leave their holder's barrier, which is checked when
all have left it (log entry 23); and its "apply sent" frees the trunk, whose event goes to DC, RS, AM and PU in
that order. A report settles an AWAITING row, or a MUTE does (R97), the later one where two are out (the model's
choice, log entry 54). A lost building is told to its holder and its row emptied, a row of ALARM keeps ALARM
(R98). A source change takes effect in the buildings of the set that the claimant holds, whose barrier has fired there and
which it is not releasing, and the claimant is told which these are (R88). -/
def Obligations.BarriersReleaseAndLoss : Prop :=
  (∀ (c : Claimant) (set : BuildingSet) (src : Source) (d d' : Dev), applyBuildings c set src d = d' →
     d'.ta.rows = d.ta.rows ∧ d'.bus = d.bus ∧ d'.agenda = d.agenda ++ [.barrierCheck c] ∧
     ∃ x, barrierOf d' c = some x ∧ x.source = src ∧ ∀ b : Building, bsHas x.members b =
       ((barrierOf d c).any (fun y => bsHas y.members b) ||
         (bsHas set b && !(d.ta.rows[b]).releasing &&
           (match (d.ta.rows[b]).holder with | .claimant h _ => decide (h = c) | _ => false)))) ∧
  (∀ (c : Claimant) (d d' : Dev) (x : Barrier), barrierOf d c = some x → checkBarrier c d = d' →
     (x.members = 0 → d'.agenda = d.agenda ++ [.started c 0] ∧ barrierOf d' c = none ∧ d'.ta.rows = d.ta.rows) ∧
     ((∃ b, bsHas x.members b = true ∧ ∀ st, (d.ta.rows[b]).stage = some st →
         ¬(st.owner = some c ∧ st.phase = .confirmed)) → d' = d) ∧
     (x.members ≠ 0 →
       (∀ b, bsHas x.members b = true → ∃ st, (d.ta.rows[b]).stage = some st ∧ st.owner = some c ∧
         st.phase = .confirmed) →
       barrierOf d' c = none ∧
       (∃ s, d'.agenda.getLast? = some (.started c s) ∧
         ∀ b, bsHas s b = (bsHas x.members b && switchReachable d b)) ∧
       ∀ b : Building,
         (bsHas x.members b = false → d'.ta.rows[b] = d.ta.rows[b]) ∧
         (bsHas x.members b = true → switchReachable d b = true → ∀ st, (d.ta.rows[b]).stage = some st →
           d'.ta.rows[b] = { d.ta.rows[b] with
             source := x.source, awaited := some { map := st.map, release := none }, fired := true } ∧
           (d'.bus[b]).applyPending = true) ∧
         (bsHas x.members b = true → switchReachable d b = false → (d.ta.rows[b]).holder ≠ .alarm →
           (d'.ta.rows[b]).holder = .none ∧ (d'.ta.rows[b]).stage = none ∧
             ∀ h p, (d.ta.rows[b]).holder = .claimant h p → Msg.lost h b ∈ d'.agenda))) ∧
  (∀ (c : Claimant) (b : Building) (d d' : Dev) (row : Row), d.ta.rows[b] = row → releaseOne c b d = d' →
     ((∀ p, row.holder ≠ .claimant c p) ∨ row.releasing = true → d' = d) ∧
     (∀ p, row.holder = .claimant c p → row.releasing = false → ∀ sw : Station,
       rowOfKind d.bus[b] .zoneSwitch = some sw → rowAt d.bus[b] sw.addr = some sw → sw.state ≠ .offline →
       (d.bus[b]).alarm = false →
       d'.ta.rows[b] = { row with
         source := .silent, releasing := true
         stage := some { map := 0, owner := none
                         phase := if (d.bus[b]).queue.length < 6 then .queued d.serial else .placing } } ∧
       (d'.bus[b]).queue = (d.bus[b]).queue ++
         (if (d.bus[b]).queue.length < 6 then [{ addr := sw.addr, op := .stage 0, owner := .ta, serial := d.serial }]
          else []) ∧
       barrierOf d' c = (barrierOf d c).map fun x => { x with members := bsRemove x.members b })) ∧
  (∀ (b : Building) (d : Dev) (row : Row), d.ta.rows[b] = row →
     let freed : List Msg := [.trunkFree .dc b, .trunkFree .rs b, .trunkFree .am b, .trunkFree .pu b]
     (row.awaited = none → takeApplySent b d = d) ∧
     (∀ w, row.awaited = some w →
       (w.release = none → takeApplySent b d = setRow b { row with applied := w.map, awaited := none } d) ∧
       (∀ c p, w.release = some c → row.holder = .claimant c p → row.releasing = true →
         takeApplySent b d = pushAll freed (setRow b { row with
           holder := .none, map := 0, releasing := false, source := .silent, awaited := none, applied := 0
           fired := false } d))) ∧
     (∀ active : ZoneMap,
       (row.settling ≠ .awaiting → takeSwitchReport b active d = setRow b { row with applied := active } d) ∧
       (row.settling = .awaiting → active = 0 → takeSwitchReport b active d =
         (if row.holder = .none then pushAll freed else id)
           (setRow b { row with applied := 0, settling := .settled } d)) ∧
       (row.settling = .awaiting → active ≠ 0 → ∀ sw : Station, rowOfKind d.bus[b] .zoneSwitch = some sw →
         rowAt d.bus[b] sw.addr = some sw →
         (takeSwitchReport b active d).ta.rows[b] = { row with
           applied := active
           settling := if sw.state = .offline then .awaiting
             else .muting (if (d.bus[b]).queue.length < (if (d.bus[b]).alarm then 2 else 6) then some d.serial
               else none) })) ∧
     (∀ (c : Command) (o : CmdOutcome),
       (row.settling ≠ .muting (some c.serial) → takeMuteOutcome b c o d = d) ∧
       (row.settling = .muting (some c.serial) →
         (∀ ans at_, o = .done ans at_ → takeMuteOutcome b c o d =
           (if row.holder = .none then pushAll freed else id)
             (setRow b { row with applied := 0, settling := .settled } d)) ∧
         ((∀ ans at_, o ≠ .done ans at_) →
           takeMuteOutcome b c o d = setRow b { row with settling := .awaiting } d))) ∧
     (∀ d', loseBuilding b d = d' →
       (row.holder = .alarm →
         d' = setRow b { row with source := .silent, stage := none, awaited := none } d) ∧
       (row.holder ≠ .alarm → d'.ta.rows[b] = { row with
         holder := .none, map := 0, releasing := false, source := .silent, stage := none, awaited := none
         fired := false }) ∧
       (∀ c p, row.holder = .claimant c p → Msg.lost c b ∈ d'.agenda ∧
         (row.releasing = false →
           barrierOf d' c = (barrierOf d c).map fun x => { x with members := bsRemove x.members b }))) ∧
     ((switchGone b d).ta.rows[b]).settling = .awaiting ∧
     (switchGone b d).ta.rows[b] = { (loseBuilding b d).ta.rows[b] with settling := .awaiting }) ∧
  (∀ (c : Claimant) (set : BuildingSet) (d d' : Dev), releaseSet c set d = d' →
     let left (b : Building) : Prop := bsHas set b = true ∧ (d.ta.rows[b]).releasing = false ∧
       ∃ p, (d.ta.rows[b]).holder = .claimant c p
     let fine (b : Building) : Prop := (d.bus[b]).alarm = false ∧ ∃ sw, rowOfKind d.bus[b] .zoneSwitch = some sw ∧
       rowAt d.bus[b] sw.addr = some sw ∧ sw.state ≠ .offline
     (∀ b : Building,
       (¬left b → d'.ta.rows[b] = d.ta.rows[b] ∧ d'.bus[b] = d.bus[b]) ∧
       (left b → fine b → ∀ sw, rowOfKind d.bus[b] .zoneSwitch = some sw → ∃ n,
         d'.ta.rows[b] = { d.ta.rows[b] with
           source := .silent, releasing := true
           stage := some { map := 0, owner := none
                           phase := if (d.bus[b]).queue.length < 6 then .queued n else .placing } } ∧
         d'.bus[b] = { d.bus[b] with queue := (d.bus[b]).queue ++
           if (d.bus[b]).queue.length < 6 then [{ addr := sw.addr, op := .stage 0, owner := .ta, serial := n }]
           else [] })) ∧
     ((∀ b, left b → fine b) →
       (∃ l, d'.agenda = d.agenda ++ l ∧ ∀ m ∈ l, m = .barrierCheck c ∨ ∃ b, m = .busStart b) ∧
       (barrierOf d c = none → barrierOf d' c = none) ∧
       ∀ x, barrierOf d c = some x → ∃ y, barrierOf d' c = some y ∧ y.source = x.source ∧
         (∀ b, bsHas y.members b = true ↔ bsHas x.members b = true ∧ ¬left b) ∧
         ((∃ b, left b ∧ bsHas x.members b = true) → Msg.barrierCheck c ∈ d'.agenda))) ∧
  (∀ (c : Claimant) (set told : BuildingSet) (src : Source) (d d' : Dev), changeSource c set src d = (told, d') →
     (∀ b : Building, bsHas told b = true ↔ bsHas set b = true ∧ (∃ p, (d.ta.rows[b]).holder = .claimant c p) ∧
       (d.ta.rows[b]).releasing = false ∧ (d.ta.rows[b]).fired = true) ∧
     d' = { d with ta := { d.ta with rows := d'.ta.rows } } ∧
     ∀ b : Building, d'.ta.rows[b] = if bsHas told b then { d.ta.rows[b] with source := src } else d.ta.rows[b])

/-- While the alarm hold is in force, every trunk with a zone switch configured is held by ALARM (R99), whatever the
step; a RESTART in progress has yet to force them again (R172). And while it is in force there is no active run
and no run waiting, no request, no open or waiting page and no drill, whatever the step (R117, R134, R146,
R161). -/
def Obligations.EveryStepKeepsTheTrunksForced : Prop :=
  ∀ s t : State, step s = .next t →
    ((s.tb.restart.isSome || trunksForced s.dev) = true → (t.tb.restart.isSome || trunksForced t.dev) = true) ∧
    (holdClears s.dev = true → holdClears t.dev = true)

/-! ## Patterns and ring runs (chapter 6) -/

/-- PATTERN SET (R103): the places before the first END replace the pattern, unless one of them or the number is out
of range; the places after END are not examined. The end of a generator's last step (R104, R105): a run ends
FINISHED, a chime reports to its slot and its generator is free for others, and the drill's generator starts
again; one that is not SOUNDING has no end to report. What a generator puts out (R104): silence unless it is
SOUNDING, then the tone of the TONE step that the time since its first step falls in, and silence in a GAP;
every trunk whose source it is carries that. A generator given to a run is ARMED with its pattern, and TA is
asked to apply what the run has GRANTED (R105, R113); one that is freed goes to the head of the wait list or
becomes IDLE; a chime gets the lowest IDLE one, or NONE FREE (R105). The drill gets the lowest IDLE one, else
that of the run started last, else that assigned last to a run in STAGING, else that assigned last to a chime
(R106): the run ends GENERATOR TAKEN, its buildings released first, and the chime's slot is told; that PU acts on this
after DC's whole entry to EVAC is the model's choice (log entry 59). -/
def Obligations.PatternsAreSetAndEnd : Prop :=
  (∀ (tag pattern : Nat) (places : Vector StepPlace 8) (s : State), takesAtOnce s = true →
     let before : List StepPlace := places.toList.takeWhile fun x => x != .finish
     let good (x : StepPlace) : Prop :=
       match x with
       | .tone t n => 1 ≤ t ∧ t ≤ 8 ∧ 1 ≤ n ∧ n ≤ 127
       | .gap n => 1 ≤ n ∧ n ≤ 127
       | .finish => True
     (pattern < 1 ∨ 32 < pattern ∨ (∃ x ∈ before, ¬good x) →
       exec (.patternSet tag pattern places) s = .next (replied tag (.patternSet pattern places) .range [] s)) ∧
     (∀ i : Fin 32, i.1 + 1 = pattern → (∀ x ∈ before, good x) →
       ∃ steps : List PStep, steps.length = before.length ∧
         (∀ (n : Nat) (x : StepPlace), before[n]? = some x →
           (∀ a b, x = .tone a b → steps[n]? = some (.tone a b)) ∧ (∀ b, x = .gap b → steps[n]? = some (.gap b))) ∧
         exec (.patternSet tag pattern places) s = .next (replied tag (.patternSet pattern places) .ok []
           { s with dev := { s.dev with rs := { s.dev.rs with patterns := put s.dev.rs.patterns i steps } } }))) ∧
  (∀ (g : GenNo) (s : State),
     (isRunning s.tb = false → exec (.patternEnd g) s = .next s) ∧
     (isRunning s.tb = true → s.dev.agenda = [] → (∀ u, s.dev.rs.gens[g] = some u → u.phase ≠ .sounding) →
       exec (.patternEnd g) s = .next s) ∧
     (∀ u, isRunning s.tb = true → s.dev.rs.gens[g] = some u → u.phase = .sounding →
       (∀ r, u.user = .run r → exec (.patternEnd g) s =
         .next (settled s (finishRun (envOf s) r .finished (setGen g (some { u with phase := .ended }) s.dev)))) ∧
       (∀ k, u.user = .chime k → exec (.patternEnd g) s =
         .next (settled s (freeGen g (push (.chimeEnd k) (setGen g (some { u with phase := .ended }) s.dev))))) ∧
       (u.user = .drill → s.dev.agenda = [] → ∃ t, exec (.patternEnd g) s = .next t ∧ t.tb = s.tb ∧ t.link = s.link ∧
         t.dev.rs.gens[g] = some { u with since := s.tb.clock } ∧
         (∀ h : GenNo, h ≠ g → t.dev.rs.gens[h] = s.dev.rs.gens[h])))) ∧
  (∀ (clock : Nat) (d : Dev) (g : GenNo),
     (d.rs.gens[g] = none → genOutput clock d g = none) ∧
     (∀ u, d.rs.gens[g] = some u →
       let ends (n : Nat) : Nat := u.since + Config.msTicks (((u.steps.take n).map fun
         | .tone _ m => m
         | .gap m => m).sum * 100)
       (u.phase ≠ .sounding → genOutput clock d g = none) ∧
       (u.phase = .sounding →
         (∀ n x, u.steps[n]? = some x → ends n ≤ clock → clock < ends (n + 1) →
           (∀ t m, x = .tone t m → genOutput clock d g = some t) ∧ (∀ m, x = .gap m → genOutput clock d g = none)) ∧
         (ends u.steps.length ≤ clock → genOutput clock d g = none))) ∧
     (∀ b : Building, (d.ta.rows[b]).source = .tg g → trunkSignal clock d b =
       (match genOutput clock d g with
       | some t => .tone t
       | none => .silence))) ∧
  (∀ (r : RunIx) (g : GenNo) (d d' : Dev) (x : Run), d.rs.runs[r] = some x → stageRun r g d = d' →
     (∃ y, d'.rs.runs[r] = some y ∧ y = { x with state := .staging, gen := some g, at_ := y.at_ } ∧
       ∀ b : Building, y.at_[b] = if x.at_[b] = some .granted then some .staged else x.at_[b]) ∧
     d'.rs.gens[g] =
       some { user := .run r, phase := .armed, steps := x.steps, since := 0, order := d.rs.nextAssign } ∧
     (∃ z, barrierOf d' (.ring r) = some z ∧ z.source = .tg g ∧ ∀ b : Building, x.at_[b] = some .granted →
       holdsFirmly d (.ring r) b = true → bsHas z.members b = true) ∧
     d'.agenda = d.agenda ++ [.barrierCheck (.ring r)]) ∧
  (∀ (g : GenNo) (d : Dev),
     (d.rs.waitList = [] → freeGen g d = setGen g none d) ∧
     (∀ r rest, d.rs.waitList = r :: rest →
       freeGen g d = stageRun r g (setGen g none { d with rs := { d.rs with waitList := rest } })) ∧
     (∀ (k : PageSlot) (n : Nat),
       (patternOf d n = [] ∨ (∀ h : GenNo, (d.rs.gens[h]).isSome = true) → askChime k n d = (none, d)) ∧
       (patternOf d n ≠ [] → d.rs.gens[g] = none → (∀ h : GenNo, h < g → (d.rs.gens[h]).isSome = true) →
         ∃ d', askChime k n d = (some g, d') ∧ d' = { d with rs := { d.rs with
           nextAssign := d.rs.nextAssign + 1
           gens := put d.rs.gens g (some { user := .chime k, phase := .armed, steps := patternOf d n, since := 0
                                           order := d.rs.nextAssign }) } }))) ∧
  (∀ (e : Env) (steps : List PStep) (d d' : Dev) (g : GenNo), takeDrillGen e steps d = (g, d') →
     let lastOf (p : GenUse → Prop) (h : GenNo) : Prop := ∃ u, d.rs.gens[h] = some u ∧ p u ∧
       ∀ (q : GenNo) (v : GenUse), q ≠ h → d.rs.gens[q] = some v → p v → v.order < u.order
     let staged (u : GenUse) : Prop := ∃ r x, u.user = .run r ∧ d.rs.runs[r] = some x ∧ x.state = .staging
     let chime (u : GenUse) : Prop := ∃ k, u.user = .chime k
     let started : Option GenNo := (d.rs.startOrder.getLast?).bind fun r => (d.rs.runs[r]).bind fun x => x.gen
     (∀ h : GenNo, d.rs.gens[h] = none → (∀ q : GenNo, q < h → (d.rs.gens[q]).isSome = true) → g = h) ∧
     ((∀ h : GenNo, (d.rs.gens[h]).isSome = true) →
       (∀ h, started = some h → g = h) ∧
       (started = none → (∀ h, lastOf staged h → g = h) ∧
         ((∀ (h : GenNo) (u : GenUse), d.rs.gens[h] = some u → ¬staged u) → ∀ h, lastOf chime h → g = h))) ∧
     (∀ d1, d1 = (match d.rs.gens[g] with
         | none => d
         | some u =>
           match u.user with
           | .run r => (endRun e r .generatorTaken { plainEnd with giveBack := false } d).2
           | .chime k => push (.chimeTaken k) d
           | .drill => d) →
       d' = { d1 with rs := { d1.rs with
         nextAssign := d1.rs.nextAssign + 1
         gens := put d1.rs.gens g
           (some { user := .drill, phase := .armed, steps := steps, since := 0, order := d1.rs.nextAssign }) } }))

/-- RING NOW (R109): the checks in their order; an EMPTY pattern rings nothing, and otherwise the lowest free slot
takes a run of this pattern and zone set, due now, with the bell hold window, and is answered with its id; the
id is sent as an optional field (the model's choice, log entry 9). RUN STOP (R116): RANGE, NOTFOUND, or the run
ends STOPPED: every building it held, claimed or waited for is DROPPED (STOPPED); with nothing sounded the
outcome is SUPPRESSED, unless a building was dropped for a reason that is no exclusion, which gives MISSED; a
run that has sounded is PARTIAL (R115). A run's claim (R110): what TA's answer makes of each building, what a
claim at the deadline leaves being DROPPED (HELD) (R111), and the released sets of the other runs (R107). A run
with nothing left to claim takes the first case of R112: it ends NOTHING GRANTED, goes to STAGING with the
lowest IDLE generator, ends DEADLINE or WAIT LIST FULL, or waits. STARTED (R113): PLAYING with its generator
SOUNDING, or ALL LOST. A PREEMPTED or FAILED building is DROPPED, and a run that holds none any more is ALL LOST
(R114). A trunk-free event has every active run, oldest first, claim that building again (R111). An ending
(R115): each building's state and reason, the outcome of R115's table, the buildings it holds released and kept
as its released set, its generator freed, and its origin told. A building that a trunk-free event or a FAILED notice names
leaves every released set (R107). That a run moves on before the holders that its claim preempted take their notices is the
model's choice (log entry 56). -/
def Obligations.RunsAreMadeAndStopped : Prop :=
  (∀ (tag pattern : Nat) (zones : ZoneSet) (s : State), takesAtOnce s = true →
     let ask : Request := .ringNow pattern zones
     (pattern < 1 ∨ 32 < pattern ∨ zones = 0 →
       exec (.ringNow tag pattern zones) s = .next (replied tag ask .range [] s)) ∧
     (∀ i : Fin 32, i.1 + 1 = pattern → zones ≠ 0 →
       (s.dev.ah.hold = true → exec (.ringNow tag pattern zones) s = .next (replied tag ask .refused [] s)) ∧
       (s.dev.ah.hold = false →
         (s.dev.rs.patterns[i] = [] → exec (.ringNow tag pattern zones) s = .next (replied tag ask .ok [0] s)) ∧
         (s.dev.rs.patterns[i] ≠ [] →
           ((∀ r : RunIx, ∃ run, s.dev.rs.runs[r] = some run ∧ ¬(run.state = .done ∧ run.released = 0)) →
             exec (.ringNow tag pattern zones) s = .next (replied tag ask .full [] s)) ∧
           (∀ r : RunIx,
             (∀ run, s.dev.rs.runs[r] = some run → run.state = .done ∧ run.released = 0) →
             (∀ q : RunIx, q < r → ∃ run, s.dev.rs.runs[q] = some run ∧ ¬(run.state = .done ∧ run.released = 0)) →
             exec (.ringNow tag pattern zones) s =
               .next (replied tag ask .ok (1 :: num2 (r.1 + 1))
                 (settled s (createRun (envOf s) .ringNow pattern zones s.tb.time s.dev).2)) ∧
             ∃ run, (createRun (envOf s) .ringNow pattern zones s.tb.time s.dev).2.rs.runs[r] = some run ∧
               run.origin = .ringNow ∧ run.pattern = pattern ∧ run.steps = s.dev.rs.patterns[i] ∧ run.zones = zones ∧
               run.due = s.tb.time ∧ run.window = s.link.settings.bellWindow))))) ∧
  (∀ (tag run : Nat) (s : State), takesAtOnce s = true →
     (run < 1 ∨ 12 < run → exec (.runStop tag run) s = .next (replied tag (.runStop run) .range [] s)) ∧
     (∀ r : RunIx, r.1 + 1 = run →
       ((∀ x, s.dev.rs.runs[r] = some x → x.state = .done) →
         exec (.runStop tag run) s = .next (replied tag (.runStop run) .notFound [] s)) ∧
       (∀ x, s.dev.rs.runs[r] = some x → x.state ≠ .done →
         exec (.runStop tag run) s = .next (replied tag (.runStop run) .ok []
           (settled s (finishRun (envOf s) r .stopped s.dev)))))) ∧
  (∀ (e : Env) (r : RunIx) (d : Dev) (x : Run), d.rs.runs[r] = some x →
     ∃ y, (finishRun e r .stopped d).rs.runs[r] = some y ∧ y.state = .done ∧ y.ending = some .stopped ∧
       y.endTime = e.now ∧ y.gen = none ∧
       (∀ b : Building, ((x.at_[b]).any fun s => isHolding s || isWanting s) = true →
         y.at_[b] = some (.dropped .stopped)) ∧
       (x.sounded = 0 →
         ((∀ (b : Building) (reason : DropReason), x.at_[b] = some (.dropped reason) →
             reason ∈ [.quiet, .disabled, .drill, .alarm, .stopped]) →
           (∀ b : Building, x.at_[b] ≠ some .done) → y.outcome = some .suppressed) ∧
         ((∃ (b : Building) (reason : DropReason), x.at_[b] = some (.dropped reason) ∧
             reason ∈ [.failed, .held, .preempted]) → y.outcome = some .missed)) ∧
       (∀ b : Building, x.at_[b] = some .playing → bsHas x.sounded b = true → y.outcome = some .partly)) ∧
  (∀ (r : RunIx) (which : List Building) (d d' : Dev) (x : Run), d.rs.runs[r] = some x → which.Nodup →
     claimForRun r which d = d' →
     let answer (b : Building) : ClaimAnswer := (answerFor d (.ring r) .ring (x.count == 0) x.zones b).2
     let left (s : RunBuilding) : RunBuilding := if x.count = 0 then .dropped .held else s
     (∃ y, d'.rs.runs[r] = some y ∧ y = { x with at_ := y.at_ } ∧ ∀ b : Building,
       (x.at_[b] = none → y.at_[b] = none) ∧
       (∀ s, x.at_[b] = some s → b ∉ which →
         y.at_[b] = some (if s = .claiming ∨ s = .waiting then left s else s)) ∧
       ((x.at_[b]).isSome = true → b ∈ which →
         (answer b = .granted → y.at_[b] = some .granted) ∧
         (answer b = .wait → y.at_[b] = some (left .waiting)) ∧
         (answer b = .held .priority ∨ answer b = .held .settling → y.at_[b] = some (left .claiming)) ∧
         (answer b = .held .drill → y.at_[b] = some (.dropped .drill)) ∧
         (answer b = .held .alarm → y.at_[b] = some (.dropped .alarm)) ∧
         (answer b = .failed → y.at_[b] = some (.dropped .failed)) ∧
         (answer b = .excludedQuiet → y.at_[b] = some (.dropped .quiet)) ∧
         (answer b = .excludedDisabled → y.at_[b] = some (.dropped .disabled)))) ∧
     (∀ (q : RunIx) (z : Run), q ≠ r → d.rs.runs[q] = some z →
       ∃ w, d'.rs.runs[q] = some { z with released := w } ∧ ∀ b : Building,
         bsHas w b = (bsHas z.released b && !decide (b ∈ which ∧ answer b ≠ .held .priority)))) ∧
  (∀ (e : Env) (r : RunIx) (d d' : Dev) (x : Run), d.rs.runs[r] = some x → moveOn e r d = d' →
     let wants : Prop := ∃ b : Building, x.at_[b] = some .claiming ∨ x.at_[b] = some .waiting
     let granted : Prop := ∃ b : Building, x.at_[b] = some .granted
     let ended (how : RunEnding) : Prop := ∃ y, d'.rs.runs[r] = some y ∧ y.state = .done ∧ y.ending = some how
     (x.state ≠ .claiming ∨ wants → d' = d) ∧
     (x.state = .claiming → ¬wants →
       (¬granted → ended .nothingGranted) ∧
       (granted →
         (∀ g, d.rs.gens[g] = none → (∀ h : GenNo, h < g → (d.rs.gens[h]).isSome = true) → d' = stageRun r g d) ∧
         ((∀ h : GenNo, (d.rs.gens[h]).isSome = true) →
           (x.count = 0 → ended .deadline) ∧
           (x.count ≠ 0 → 8 ≤ d.rs.waitList.length → ended .waitListFull) ∧
           (x.count ≠ 0 → d.rs.waitList.length < 8 → d' = { d with rs := { d.rs with
             runs := put d.rs.runs r (some { x with state := .genWait }), waitList := d.rs.waitList ++ [r] } }))))) ∧
  (∀ (e : Env) (r : RunIx) (members : BuildingSet) (d d' : Dev) (x : Run), d.rs.runs[r] = some x →
     runStarted e r members d = d' →
     let next (b : Building) : Option RunBuilding :=
       if x.at_[b] = some .staged then some (if bsHas members b then .playing else .dropped .notStarted) else x.at_[b]
     (x.state ≠ .staging → d' = d) ∧
     (x.state = .staging →
       (members = 0 → ∃ y, d'.rs.runs[r] = some y ∧ y.state = .done ∧ y.ending = some .allLost ∧
         ∀ b : Building, x.at_[b] = some .staged → y.at_[b] = some (.dropped .notStarted)) ∧
       (members ≠ 0 → d'.ta = d.ta ∧ d'.bus = d.bus ∧ d'.rs.startOrder = d.rs.startOrder ++ [r] ∧
         (∃ y, d'.rs.runs[r] = some y ∧ y = { x with state := .playing, at_ := y.at_, sounded := y.sounded } ∧
           ∀ b : Building, y.at_[b] = next b ∧
             bsHas y.sounded b = (bsHas x.sounded b || decide (next b = some .playing))) ∧
         ∀ g u, x.gen = some g → d.rs.gens[g] = some u →
           d'.rs.gens[g] = some { u with phase := .sounding, since := e.clock }))) ∧
  (∀ (e : Env) (r : RunIx) (b : Building) (reason : DropReason) (d d' : Dev) (x : Run), d.rs.runs[r] = some x →
     runNotice e r b reason d = d' →
     let holds (c : Building) : Prop := x.at_[c] ∈ [some .granted, some .staged, some .playing]
     (x.state = .done ∨ ¬holds b → d' = d) ∧
     (x.state ≠ .done → holds b → ∀ d1, d1 = setRun r (some { x with at_ := put x.at_ b (some (.dropped reason)) }) d →
       (x.state = .claiming → d' = moveOn e r d1) ∧
       (x.state ≠ .claiming → (∃ c, c ≠ b ∧ holds c) → d' = d1) ∧
       (x.state ≠ .claiming → (∀ c, c ≠ b → ¬holds c) →
         ∃ y, d'.rs.runs[r] = some y ∧ y.state = .done ∧ y.ending = some .allLost))) ∧
  (∀ (b : Building) (d : Dev), ∃ runs,
     runsForget b d = { d with rs := { d.rs with runs := runs } } ∧ ∀ r : RunIx,
       (d.rs.runs[r] = none → runs[r] = none) ∧
       ∀ x, d.rs.runs[r] = some x → ∃ left, runs[r] = some { x with released := left } ∧
         ∀ c : Building, bsHas left c = true ↔ bsHas x.released c = true ∧ c ≠ b) ∧
  (∀ (e : Env) (b : Building) (d : Dev), ∃ order : List RunIx, order.Nodup ∧
     (∀ r, r ∈ order ↔ ∃ x, d.rs.runs[r] = some x ∧ x.state ≠ .done) ∧
     order.Pairwise (fun r q => ∀ x y, d.rs.runs[r] = some x → d.rs.runs[q] = some y → x.order ≤ y.order) ∧
     ∀ one : BuildingSet, (∀ c : Building, bsHas one c = true ↔ c = b) →
       rsTrunkFree e b d = order.foldl (fun y r => reclaim e r one y) (runsForget b d)) ∧
  (∀ (e : Env) (r : RunIx) (among : BuildingSet) (d : Dev) (x : Run), d.rs.runs[r] = some x →
     let again : List Building := (List.finRange 8).filter fun b =>
       bsHas among b && decide (x.at_[b] = some .claiming ∨ x.at_[b] = some .waiting)
     (x.state ≠ .claiming ∨ again = [] → reclaim e r among d = d) ∧
     (x.state = .claiming → again ≠ [] → reclaim e r among d = moveOn e r (claimForRun r again d))) ∧
  (∀ (e : Env) (r : RunIx) (ending : RunEnding) (d d' : Dev) (x : Run) (o : RingOutcome), d.rs.runs[r] = some x →
     endRun e r ending plainEnd d = (o, d') →
     let reason : Option DropReason := match ending with
       | .deadline => some .held
       | .waitListFull => some .noGenerator
       | .generatorTaken => some .generatorTaken
       | .stopped => some .stopped
       | .aborted => some .aborted
       | .abortedPower => some .power
       | .finished | .nothingGranted | .allLost => none
     let settles (s : RunBuilding) : RunBuilding := match s, reason with
       | .playing, none => if ending = .finished then .done else .playing
       | .dropped q, _ => .dropped q
       | .done, _ => .done
       | _, some q => .dropped q
       | _, none => s
     let excluded (b : Building) (s : RunBuilding) : Prop :=
       s ∈ [.dropped .quiet, .dropped .disabled, .dropped .drill, .dropped .alarm] ∨
         (s = .dropped .stopped ∧ bsHas x.sounded b = false)
     let every (p : Building → RunBuilding → Prop) : Prop := ∀ b s, x.at_[b] = some s → p b (settles s)
     ∃ (held : BuildingSet) (y : Run),
       (∀ b : Building, bsHas held b = true ↔ x.at_[b] ∈ [some .granted, some .staged, some .playing]) ∧
       (∀ b : Building, y.at_[b] = (x.at_[b]).map settles) ∧
       y = { x with
         state := .done, at_ := y.at_, gen := none, ending := some ending, outcome := some o, endTime := e.now
         released := held } ∧
       (x.sounded = 0 →
         (every excluded → o = .suppressed) ∧ (¬every excluded → o = .missed)) ∧
       (x.sounded ≠ 0 →
         (every (fun b s => excluded b s ∨ s = .done) → o = .rung) ∧
         (¬every (fun b s => excluded b s ∨ s = .done) → o = .partly)) ∧
       ∀ d1 d2, d1 = releaseSet (.ring r) held d →
         d2 = { d1 with rs := { d1.rs with
           waitList := d1.rs.waitList.filter (fun q => q != r), startOrder := d1.rs.startOrder.filter (fun q => q != r)
           runs := put d1.rs.runs r (some y) } } →
         d' = (match x.origin with
           | .entry ref => push (.ringOutcome ref o)
           | .ringNow => id)
           (match x.gen with
           | some g => freeGen g d2
           | none => d2))

/-! ## Announcements (chapter 7) -/

/-- CLIP DEFINE (R119): RANGE with the table unchanged, or the record takes the new value, a length of 0 making the
clip undefined; a request already in the queue, playing or not, keeps the length it came with. -/
def Obligations.ClipDefineRewritesTheRecord : Prop :=
  ∀ (tag clip length : Nat) (s : State), takesAtOnce s = true →
    (clip < 1 ∨ 64 < clip ∨ 3000 < length →
      exec (.clipDefine tag clip length) s = .next (replied tag (.clipDefine clip length) .range [] s)) ∧
    (∀ i : Fin 64, i.1 + 1 = clip → length ≤ 3000 →
      ∃ t, exec (.clipDefine tag clip length) s = .next (replied tag (.clipDefine clip length) .ok [] t) ∧
        t = { s with dev := { s.dev with am := { s.dev.am with
          clips := put s.dev.am.clips i (if length = 0 then none else some length) } } })

/-- An id (R122): the first at or after the next id, from 255 round to 1, that no request in the queue and no released
set with a building has; with at most 254 of these there is one. ANNOUNCE (R124): the checks in their order, and the
merge into a request of the same clip, zones and priority; else it takes its id and its place, behind the PLAYING
request and every request of its priority or a higher one (R123). ANNOUNCE CANCEL (R131): the checks in their order;
the request ends CANCELLED and leaves the queue, and one that is PLAYING gives back its buildings and has its clip
stopped. A STOP with CPLAY released leaves the player IDLE at once (the model's choice, log entry 15), and a
not-before time outside the calendar counts as day times 86 400 plus second and is not compared around the calendar's
wrap (the model's choice, log entries 43 and 51). The scan (R127): while the player is IDLE each eligible request
claims its zone set; GRANTED starts it, HELD passes it over, NONE LEFT ends it SUPPRESSED unless a building was
FAILED, and behind a DRILL request that was not started the scan ends. A granted request is PLAYING at the head of the
queue, the player is STAGING, and TA is asked to apply the granted buildings with source PLAYER (R128). A drill clip
(R132): refused REFUSED, NOTFOUND or BUSY, or placed at the head of the QUEUED requests, the playing request having
ended PREEMPTED, and the last of a full queue DISPLACED. `order` is the model's mark of arrival (R126). An end (R130):
the buildings it holds are released and kept as its released set, the player goes IDLE or is stopped, the request
leaves the queue and joins the finished list with its delivered set, and DC hears of a drill clip. The request of a
CLIP entry is taken from R124's step 5 on, with an expiry count of 300 (R125). A building leaves every released set at
a trunk-free event, after which AM scans, at a FAILED notice, and when a later claim of AM's is granted it (R122,
R127). -/
def Obligations.AnnounceRequests : Prop :=
  let same (clip : Nat) (zones : ZoneSet) (prio : ReqPrio) (q : AnnounceReq) : Prop :=
    q.clip = clip ∧ q.zones = zones ∧ q.prio = prio
  let rank (p : ReqPrio) : Nat := (match p with
    | .normal => 0
    | .urgent => 1
    | .drill => 2)
  let merged (id count : Nat) (d : Dev) : Dev := { d with am := { d.am with
    queue := d.am.queue.map fun x => if x.id = id then { x with count := max x.count count } else x } }
  let inUse (d : Dev) (n : Nat) : Prop :=
    (∃ q ∈ d.am.queue, q.id = n) ∨ ∃ p ∈ d.am.released, p.1 = n ∧ p.2 ≠ 0
  let assigned (d : Dev) (n : Nat) : Prop := 1 ≤ d.am.nextId ∧ d.am.nextId ≤ 255 ∧
    ∃ k < 255, n = (d.am.nextId - 1 + k) % 255 + 1 ∧ ¬inUse d n ∧
      ∀ j < k, inUse d ((d.am.nextId - 1 + j) % 255 + 1)
  (∀ d : Dev, 1 ≤ d.am.nextId → d.am.nextId ≤ 255 → d.am.queue.length + d.am.released.length ≤ 254 →
     ∃ n, 1 ≤ n ∧ n ≤ 255 ∧ assigned d n) ∧
  (∀ (tag clip : Nat) (zones : ZoneSet) (priority : Nat) (notBefore : Option Stamp) (expiry : Option Nat) (s : State),
     takesAtOnce s = true →
     let answered (res : Result) : Prop :=
       exec (.announce tag clip zones priority notBefore expiry) s =
         .next (replied tag (.announce clip zones priority notBefore expiry) res [] s)
     let sec (t : Stamp) : Nat := t.day * 86400 + t.sec
     let prio : ReqPrio := if priority = 0 then .normal else .urgent
     let count : Nat := expiry.getD s.link.settings.announceExpiry
     (clip < 1 ∨ 64 < clip ∨ zones = 0 ∨ 1 < priority ∨ (∃ n, expiry = some n ∧ (n < 10 ∨ 3600 < n)) →
       answered .range) ∧
     (∀ i : Fin 64, i.1 + 1 = clip → zones ≠ 0 → priority ≤ 1 → (∀ n, expiry = some n → 10 ≤ n ∧ n ≤ 3600) →
       (s.dev.ah.hold = true → answered .refused) ∧
       (s.dev.ah.hold = false →
         (s.tb.time = none → notBefore.isSome = true → answered .noTime) ∧
         (∀ now t, s.tb.time = some now → notBefore = some t → (sec t ≤ sec now ∨ sec now + 86400 < sec t) →
           answered .range) ∧
         ((∀ t, notBefore = some t → ∃ now, s.tb.time = some now ∧ sec now < sec t ∧ sec t ≤ sec now + 86400) →
           (s.dev.am.clips[i] = none → answered .notFound) ∧
           (∀ len, s.dev.am.clips[i] = some len →
             (∀ ahead q behind, s.dev.am.queue = ahead ++ q :: behind → same clip zones prio q →
               (∀ x ∈ ahead, ¬same clip zones prio x) → s.dev.agenda = [] →
               (q.playing = true → exec (.announce tag clip zones priority notBefore expiry) s =
                 .next (replied tag (.announce clip zones priority notBefore expiry) .ok (num2 q.id) s)) ∧
               (q.playing = false → exec (.announce tag clip zones priority notBefore expiry) s =
                 .next (replied tag (.announce clip zones priority notBefore expiry) .ok (num2 q.id)
                   { s with dev := merged q.id count s.dev }))) ∧
             ((∀ q ∈ s.dev.am.queue, ¬same clip zones prio q) →
               (12 ≤ s.dev.am.queue.length → answered .full) ∧
               (s.dev.am.queue.length < 12 →
                 ∃ (id : Nat) (before after : List AnnounceReq),
                   exec (.announce tag clip zones priority notBefore expiry) s =
                     .next (replied tag (.announce clip zones priority notBefore expiry) .ok (num2 id)
                       (settled s (push .scan { s.dev with am := { s.dev.am with
                         queue := before ++
                           { id := id, origin := .host, clip := clip, length := len, zones := zones, prio := prio,
                             notBefore := notBefore, eligible := notBefore.isNone, count := count, playing := false,
                             at_ := Vector.replicate 8 none, order := s.dev.am.nextOrder } :: after
                         nextId := if 255 ≤ id then 1 else id + 1
                         nextOrder := s.dev.am.nextOrder + 1 } }))) ∧
                   (∀ n, assigned s.dev n → id = n) ∧
                   s.dev.am.queue = before ++ after ∧
                   (∀ q ∈ before, q.playing = true ∨ rank prio ≤ rank q.prio) ∧
                   (∀ q, after.head? = some q → q.playing = false ∧ rank q.prio < rank prio)))))))) ∧
  (∀ (ref : EntryRef) (clip : Nat) (zones : ZoneSet) (u : Urgency) (d : Dev),
     let prio : ReqPrio := (match u with
       | .normal => .normal
       | .urgent => .urgent)
     let taken : AmAnswer × Dev := clipEntry ref clip zones u d
     (d.ah.hold = true → taken = (.refused .refused, d)) ∧
     (d.ah.hold = false →
       (clipLength d clip = none → taken = (.refused .notFound, d)) ∧
       (∀ len, clipLength d clip = some len →
         (∀ ahead q behind, d.am.queue = ahead ++ q :: behind → same clip zones prio q →
           (∀ x ∈ ahead, ¬same clip zones prio x) →
           taken = (.taken q.id, if q.playing then d else merged q.id 300 d)) ∧
         ((∀ q ∈ d.am.queue, ¬same clip zones prio q) →
           (12 ≤ d.am.queue.length → taken = (.refused .full, d)) ∧
           (d.am.queue.length < 12 → ∃ (id : Nat) (before after : List AnnounceReq),
             taken = (.taken id, push .scan { d with am := { d.am with
               queue := before ++
                 { id := id, origin := .entry ref, clip := clip, length := len, zones := zones, prio := prio,
                   notBefore := none, eligible := true, count := 300, playing := false,
                   at_ := Vector.replicate 8 none, order := d.am.nextOrder } :: after
               nextId := if 255 ≤ id then 1 else id + 1
               nextOrder := d.am.nextOrder + 1 } }) ∧
             (∀ n, assigned d n → id = n) ∧ d.am.queue = before ++ after ∧
             (∀ q ∈ before, q.playing = true ∨ rank prio ≤ rank q.prio) ∧
             (∀ q, after.head? = some q → q.playing = false ∧ rank q.prio < rank prio)))))) ∧
  (∀ (gone : BuildingSet) (d : Dev),
     (∃ left, amForget gone d = { d with am := { d.am with released := left } } ∧ (∀ p ∈ left, p.2 ≠ 0) ∧
       (left.map fun p => p.1).Sublist (d.am.released.map fun p => p.1) ∧
       ∀ (id : Nat) (c : Building), (∃ p ∈ left, p.1 = id ∧ bsHas p.2 c = true) ↔
         (∃ p ∈ d.am.released, p.1 = id ∧ bsHas p.2 c = true) ∧ bsHas gone c = false) ∧
     ∀ (e : Env) (b : Building), (∀ c : Building, bsHas gone c = true ↔ c = b) →
       amTrunkFree e b d = scanQueue e (amForget gone d)) ∧
  (∀ (tag id : Nat) (s : State), takesAtOnce s = true →
     let answered (res : Result) : Prop :=
       exec (.announceCancel tag id) s = .next (replied tag (.announceCancel id) res [] s)
     (id < 1 ∨ 255 < id → answered .range) ∧
     (1 ≤ id → id ≤ 255 →
       ((∀ r ∈ s.dev.am.queue, r.id ≠ id) → answered .notFound) ∧
       (∀ r, reqOf s.dev id = some r →
         (r.origin = .drill → answered .refused) ∧
         (r.origin ≠ .drill → ∃ d, d = endRequest (envOf s) id .cancelled ordinaryEnd s.dev ∧
           exec (.announceCancel tag id) s = .next (replied tag (.announceCancel id) .ok [] (settled s d)) ∧
           (∀ q ∈ d.am.queue, q.id ≠ id) ∧
           (∃ f, d.am.finished.getLast? = some f ∧ f.id = id ∧ f.outcome = .cancelled ∧ f.endTime = s.tb.time) ∧
           condHas d.conds .announceAbnormal = true ∧
           (r.playing = true → (s.dev.am.player = .starting ∨ s.dev.am.player = .playing) → d.am.strobe = .stop ∧
             d.am.player = (if s.dev.am.cplay then .stopping else .idle)) ∧
           (r.playing = true → s.dev.am.player = .staging → d.am.player = .idle))))) ∧
  (∀ (e : Env) (id : Nat) (rest : List Nat) (d : Dev),
     (d.am.player ≠ .idle → scanQueue e d = d ∧ scanList e (id :: rest) d = d) ∧
     (d.am.player = .idle → scanQueue e d = scanList e (d.am.queue.map fun q => q.id) d ∧
       ∀ r, reqOf d id = some r →
         let onward (x : Dev) : Dev := if r.prio = .drill then x else scanList e rest x
         (r.playing = true ∨ r.eligible = false → scanList e (id :: rest) d = onward d) ∧
         (r.playing = false → r.eligible = true → ∀ a as d1,
           claimSet (.announce id)
             (match r.prio with
             | .normal => .normal
             | .urgent => .urgent
             | .drill => .drill) r.zones d = (a, as, d1) →
           (a = .granted → scanList e (id :: rest) d = grantRequest r as d1) ∧
           (a = .held → scanList e (id :: rest) d = onward d) ∧
           (a = .noneLeft →
             ((∃ b, (b, ClaimAnswer.failed) ∈ as) → scanList e (id :: rest) d = onward d) ∧
             ((∀ b, (b, ClaimAnswer.failed) ∉ as) →
               scanList e (id :: rest) d = onward (endRequest e id .suppressed ordinaryEnd d)))))) ∧
  (∀ (r : AnnounceReq) (as : Answers) (d d' : Dev), grantRequest r as d = d' →
     d'.am.player = .staging ∧ d'.agenda = d.agenda ++ [.barrierCheck (.announce r.id)] ∧
     (∀ gone : BuildingSet, (∀ b : Building, bsHas gone b = true ↔ (b, ClaimAnswer.granted) ∈ as) →
       d'.am.released = (amForget gone d).am.released) ∧
     (∃ x, d'.am.queue = x :: d.am.queue.filter (fun q => q.id != r.id) ∧
       x = { r with playing := true, at_ := x.at_ } ∧ ∀ b : Building, x.at_[b] =
         (match answerOf as b with
         | some .granted => some .granted
         | some .failed => some .outFailed
         | some .excludedQuiet => some .outQuiet
         | some .excludedDisabled => some .outDisabled
         | _ => none)) ∧
     ∃ z, barrierOf d' (.announce r.id) = some z ∧ z.source = .player ∧ ∀ b : Building,
       answerOf as b = some .granted → holdsFirmly d (.announce r.id) b = true → bsHas z.members b = true) ∧
  (∀ (e : Env) (clip count : Nat) (zones : ZoneSet) (d : Dev),
     let place : AmAnswer × Dev := placeDrillClip e clip zones count d
     (d.ah.hold = true → place = (.refused .refused, d)) ∧
     (d.ah.hold = false →
       (clipLength d clip = none → place = (.refused .notFound, d)) ∧
       (∀ len, clipLength d clip = some len →
         ((∃ q ∈ d.am.queue, q.origin = .drill) → place = (.refused .busy, d)) ∧
         ((∀ q ∈ d.am.queue, q.origin ≠ .drill) → ∀ d0 d1,
           d0 = (match playingReq d with
             | some r => endRequest e r.id .preempted ordinaryEnd d
             | none => d) →
           d1 = (match d0.am.queue.getLast? with
             | some z => if 12 ≤ d0.am.queue.length then endRequest e z.id .displaced ordinaryEnd d0 else d0
             | none => d0) →
           (∀ q ∈ d1.am.queue, q.playing = false ∧ q.prio ≠ .drill) →
           ∃ id, (∀ n, assigned d1 n → id = n) ∧
             place = (.taken id, push .scan { d1 with am := { d1.am with
               queue :=
                 { id := id, origin := .drill, clip := clip, length := len, zones := zones, prio := .drill
                   notBefore := none, eligible := true, count := count, playing := false
                   at_ := Vector.replicate 8 none, order := d1.am.nextOrder } :: d1.am.queue
               nextId := if 255 ≤ id then 1 else id + 1
               nextOrder := d1.am.nextOrder + 1 } }))))) ∧
  (∀ (e : Env) (id : Nat) (o : ReqOutcome) (m : ReqEnd) (d : Dev) (r : AnnounceReq), reqOf d id = some r →
     m.release = true → m.powered = true → m.later = false →
     let idle (x : Dev) : Dev :=
       push .scan { x with am := { x.am with player := .idle, startBy := none, endBy := none, stopBy := none } }
     let stop (x : Dev) : Dev :=
       if x.am.cplay then
         { x with am := { x.am with
           strobe := .stop, player := .stopping, startBy := none, endBy := none
           stopBy := some (e.clock + Config.msTicks 1000) } }
       else idle { x with am := { x.am with strobe := .stop } }
     ∃ held delivered : BuildingSet,
       (∀ b : Building, bsHas held b = true ↔
         r.playing = true ∧ (r.at_[b] = some .granted ∨ r.at_[b] = some .playing)) ∧
       (∀ b : Building, bsHas delivered b = true ↔ m.normal = true ∧ r.at_[b] = some .playing) ∧
       ∀ d0 d1 d2 d3, d0 = releaseSet (.announce id) held d →
         d1 = { d0 with am := { d0.am with
           released := if held = 0 then d0.am.released else d0.am.released ++ [(id, held)] } } →
         d2 = (if r.playing then
             match d.am.player with
             | .staging => idle d1
             | .starting => if m.normal then idle d1 else stop d1
             | .playing => if m.normal then idle d1 else stop d1
             | .stopping => d1
             | .idle => d1
           else d) →
         d3 = { d2 with
           am := { d2.am with
             queue := d2.am.queue.filter fun q => q.id != id
             finished := addFinished
               { id := id, origin := r.origin, clip := r.clip, prio := r.prio, outcome := o, delivered := delivered
                 endTime := e.now } d2.am.finished }
           conds := if o = .delivered then d2.conds else d2.conds ||| 0x100 } →
         endRequest e id o m d = if r.origin = .drill then push (.clipOutcome id o) d3 else d3)

/-- The clip port (R120, R121): the level of CPLAY while the device does not run, the player STARTING that sees
CPLAY, the ends of the three windows, and levels and windows that nothing waits for. That no window runs out
while a RESTART is in progress is the model's choice (log entry 36). A normal end (R120) is DELIVERED where
every building is PLAYING or was left out quiet or disabled, and PARTIAL otherwise. STARTED for the PLAYING
request (R128, R120): its buildings begin to play, the select lines take the clip, the START strobe goes out
with the start window of 500 ms and the end limit of the clip's length plus 3 s; with no building left the
request ends PREEMPTED or FAILED. PREEMPTED and FAILED notices (R129): the building is LOST; when none is left
the request ends, with the STOP strobe in STARTING and PLAYING, and at STARTED {} in STAGING. -/
def Obligations.ClipPortMovesThePlayer : Prop :=
  let idle (x : Dev) : Dev := { x with
    am := { x.am with player := .idle, startBy := none, endBy := none, stopBy := none }
    agenda := x.agenda ++ [.scan] }
  (∀ s : State, isRunning s.tb = false →
    exec .cplayAsserted s = .next { s with dev := { s.dev with am := { s.dev.am with cplay := true } } } ∧
    exec .cplayReleased s = .next { s with dev := { s.dev with am := { s.dev.am with cplay := false } } } ∧
    exec .startWindow s = .next s ∧ exec .endLimit s = .next s ∧ exec .stopWindow s = .next s) ∧
  (∀ s : State, isRunning s.tb = true → s.dev.agenda = [] →
    (s.dev.am.player = .starting → exec .cplayAsserted s = .next { s with dev := { s.dev with
      am := { s.dev.am with cplay := true, player := .playing, startBy := none } } }) ∧
    (s.dev.am.player ≠ .starting → exec .cplayAsserted s = .next { s with dev := { s.dev with
      am := { s.dev.am with cplay := true } } }) ∧
    (s.dev.am.player = .idle ∨ s.dev.am.player = .staging ∨ s.dev.am.player = .starting →
      exec .cplayReleased s = .next { s with dev := { s.dev with am := { s.dev.am with cplay := false } } }) ∧
    (s.dev.am.startBy = none → exec .startWindow s = .next s) ∧
    (s.dev.am.endBy = none → exec .endLimit s = .next s) ∧
    (s.dev.am.stopBy = none → exec .stopWindow s = .next s)) ∧
  (∀ (s : State) (r : AnnounceReq), isRunning s.tb = true → playingReq s.dev = some r →
    (s.dev.am.player = .playing → exec .cplayReleased s = .next (settled s
      (endRequest (envOf s) r.id (normalOutcome r) { ordinaryEnd with normal := true }
        { s.dev with am := { s.dev.am with cplay := false } }))) ∧
    (s.dev.am.player = .starting → s.dev.am.startBy.isSome = true → exec .startWindow s = .next (settled s
      (endRequest (envOf s) r.id .failed ordinaryEnd (latch .clipStoreFault s.dev)))) ∧
    (s.dev.am.player = .playing → s.dev.am.endBy.isSome = true → exec .endLimit s = .next (settled s
      (endRequest (envOf s) r.id .timeout ordinaryEnd (latch .clipTimeout s.dev))))) ∧
  (∀ s : State, isRunning s.tb = true → s.dev.am.player = .stopping →
    exec .cplayReleased s = .next (settled s (idle { s.dev with am := { s.dev.am with cplay := false } })) ∧
    (s.dev.am.stopBy.isSome = true → exec .stopWindow s = .next (settled s
      (idle (if s.dev.am.cplay then { s.dev with conds := s.dev.conds ||| 0x200 } else s.dev))))) ∧
  (∀ (e : Env) (id : Nat) (members : BuildingSet) (d d' : Dev) (r : AnnounceReq), reqOf d id = some r →
     amStarted e id members d = d' →
     (r.playing = false ∨ d.am.player ≠ .staging → d' = d) ∧
     (r.playing = true → d.am.player = .staging →
       (members = 0 → reqOf d' id = none ∧ ∃ f, d'.am.finished.getLast? = some f ∧ f.id = id ∧
         ((∃ b : Building, r.at_[b] = some .lostPreempted) → f.outcome = .preempted) ∧
         ((∀ b : Building, r.at_[b] ≠ some .lostPreempted) → f.outcome = .failed)) ∧
       (members ≠ 0 → ∃ x, x = { r with at_ := x.at_ } ∧
         (∀ b : Building, x.at_[b] = if r.at_[b] = some .granted then
           some (if bsHas members b then .playing else .lostFailed) else r.at_[b]) ∧
         d' = { d with am := { d.am with
           queue := d.am.queue.map fun q => if q.id = id then x else q
           select := r.clip - 1, strobe := .start, player := if d.am.cplay then .playing else .starting
           startBy := if d.am.cplay then none else some (e.clock + Config.msTicks 500)
           endBy := some (e.clock + Config.msTicks (r.length * 100 + 3000)), stopBy := none } }))) ∧
  (∀ (e : Env) (id : Nat) (b : Building) (preempted : Bool) (d d' : Dev) (r : AnnounceReq), reqOf d id = some r →
     amNotice e id b preempted d = d' →
     let holds (c : Building) : Prop := r.at_[c] = some .granted ∨ r.at_[c] = some .playing
     let lost : Dev := { d with am := { d.am with queue := d.am.queue.map fun q => if q.id = id then
       { r with at_ := put r.at_ b (some (if preempted then .lostPreempted else .lostFailed)) } else q } }
     (r.playing = false ∨ ¬holds b → d' = d) ∧
     (r.playing = true → holds b →
       ((∃ c, c ≠ b ∧ holds c) → d' = lost) ∧
       ((∀ c, c ≠ b → ¬holds c) →
         (d.am.player = .staging → d' = lost) ∧
         (d.am.player = .starting ∨ d.am.player = .playing → d'.am.strobe = .stop ∧ reqOf d' id = none ∧
           ∃ f, d'.am.finished.getLast? = some f ∧ f.id = id ∧
             (preempted = true ∨ (∃ c : Building, c ≠ b ∧ r.at_[c] = some .lostPreempted) → f.outcome = .preempted) ∧
             (preempted = false → (∀ c : Building, c ≠ b → r.at_[c] ≠ some .lostPreempted) → f.outcome = .failed))))) ∧
  (∀ r : AnnounceReq,
     let reached : Prop := ∀ b : Building, zoneMap r.zones b ≠ 0 →
       r.at_[b] ∈ [some .playing, some .outQuiet, some .outDisabled]
     (reached → normalOutcome r = .delivered) ∧ (¬reached → normalOutcome r = .partly))

/-! ## Live paging (chapter 8) -/

/-- PAGE SET (R137): the checks in their order, and the new configuration with its lockout. PAGE CLOSE (R144): RANGE
for another slot; an IDLE slot stays, a WAITING one is idle with lockout, and an open page is closed: its buildings are
released and join the released set, its chime generator goes back to RS, and the slot is idle with its lockout set, which
in LEVEL mode is only while the switch is seen asserted (R138). -/
def Obligations.PageRequests : Prop :=
  (∀ (tag slot : Nat) (zones : ZoneSet) (priority chime trigger : Nat) (s : State), takesAtOnce s = true →
     let answered (res : Result) : Prop :=
       exec (.pageSet tag slot zones priority chime trigger) s =
         .next (replied tag (.pageSet slot zones priority chime trigger) res [] s)
     (1 < slot ∨ 1 < priority ∨ 32 < chime ∨ 1 < trigger → answered .range) ∧
     (∀ (k : PageSlot) (p : Page), slot = (match k with | .a => 0 | .b => 1) → pageOf s.dev k = p → priority ≤ 1 →
       chime ≤ 32 → trigger ≤ 1 →
       (s.dev.ah.hold = true → answered .refused) ∧
       (s.dev.ah.hold = false → p.state ≠ .idle → answered .busy) ∧
       (s.dev.ah.hold = false → p.state = .idle →
         exec (.pageSet tag slot zones priority chime trigger) s =
           .next (replied tag (.pageSet slot zones priority chime trigger) .ok []
             { s with dev := (setPage k
                 { p with
                   configured := decide (zones ≠ 0), zones := zones
                   urgency := if priority = 0 then .normal else .urgent
                   chimePattern := if chime = 0 then none else some chime
                   trigger := if trigger = 0 then .level else .edge
                   lockout := decide (trigger = 0) && p.seen } s.dev) })))) ∧
  (∀ (tag slot : Nat) (s : State), takesAtOnce s = true →
     let locked (p : Page) (released : BuildingSet) : Page :=
       { p with
         state := .idle, started := false, held := 0, chimeGen := none, waitCount := 0, talkCount := 0
         released := released, lockout := p.lockout || decide (p.trigger = .edge) || p.seen }
     (1 < slot → exec (.pageClose tag slot) s = .next (replied tag (.pageClose slot) .range [] s)) ∧
     (∀ (k : PageSlot) (p : Page), slot = (match k with | .a => 0 | .b => 1) → pageOf s.dev k = p →
       (p.state = .idle → s.dev.agenda = [] →
         exec (.pageClose tag slot) s = .next (replied tag (.pageClose slot) .ok [] s)) ∧
       (p.state = .waiting → s.dev.agenda = [] →
         exec (.pageClose tag slot) s =
           .next (replied tag (.pageClose slot) .ok [] { s with dev := setPage k (locked p p.released) s.dev })) ∧
       (p.state = .chime ∨ p.state = .opened → ∀ freed, freed = releaseSet (.page k) p.held s.dev →
         exec (.pageClose tag slot) s = .next (replied tag (.pageClose slot) .ok [] (settled s
           (setPage k (locked p (p.released ||| p.held))
             (match p.chimeGen with
             | some g => freeGen g (setPage k { p with chimeGen := none } freed)
             | none => freed)))))))

/-- The push-to-talk inputs (R138): a new level is timed while the device runs, and after 50 ms it is PTT as seen;
the table of LEVEL and EDGE then says what it does, and an unconfigured slot does nothing. An open request
(R139): locked out during the hold; WAITING while a release it must wait for is pending; otherwise the slot
claims. GRANTED opens the page, with a chime where a pattern is set and a generator IDLE (R140), HELD makes it
wait, NONE LEFT locks it out, and the other slot's released set is cleared as R144 says. STARTED (R140) begins
the talk or the chime, or loses the page; the chime's end moves the page to its microphone (R141); PREEMPTED and
FAILED take a building, the last one the page, with lockout and the chime given back (R145). A trunk-free event
leaves both released sets, and has the WAITING slots claim again, the one that became WAITING first at the head
(R142, R144); a FAILED building leaves its slot's released set (R144). To close a page releases its buildings, which join the released set, and gives the chime back
(R144). That a granted page asks for its chime before the notices of its claim are taken is the model's choice
(log entry 56). -/
def Obligations.PushToTalkByMode : Prop :=
  (∀ (k : PageSlot) (v : Bool) (s : State) (p : Page), pageOf s.dev k = p →
    (p.level = v → exec (.pttLevelChange k v) s = .next s) ∧
    (p.level ≠ v → exec (.pttLevelChange k v) s = .next { s with dev := (setPage k
      { p with level := v, since := if isRunning s.tb && v != p.seen then some s.tb.clock else none } s.dev) })) ∧
  (∀ (k : PageSlot) (s : State) (p q : Page), pageOf s.dev k = p → q = { p with seen := p.level, since := none } →
    (isRunning s.tb = false → exec (.pttChange k) s = .next s) ∧
    (isRunning s.tb = true → s.dev.agenda = [] → (p.level = p.seen ∨ p.since = none) →
      exec (.pttChange k) s = .next s) ∧
    (isRunning s.tb = true → p.level ≠ p.seen → p.since.isSome = true → s.dev.agenda = [] →
      (p.configured = false ∨ (p.trigger = .edge ∧ p.level = false) ∨
          (p.trigger = .level ∧ p.level = true ∧ (p.state ≠ .idle ∨ p.lockout = true)) →
        exec (.pttChange k) s = .next { s with dev := setPage k q s.dev }) ∧
      (p.configured = true →
        ((p.trigger = .level ∧ p.level = false ∧ p.state = .idle) ∨
            (p.trigger = .edge ∧ p.level = true ∧ p.state = .idle ∧ p.lockout = true) →
          exec (.pttChange k) s = .next { s with dev := setPage k { q with lockout := false } s.dev }) ∧
        ((p.trigger = .level ∧ p.level = false ∨ p.trigger = .edge ∧ p.level = true) → p.state = .waiting →
          exec (.pttChange k) s = .next { s with dev := setPage k (idlePage q) s.dev }))) ∧
    (isRunning s.tb = true → p.level ≠ p.seen → p.since.isSome = true → p.configured = true →
      (p.level = true → p.state = .idle → p.lockout = false →
        exec (.pttChange k) s = .next (settled s (openRequest k (setPage k q s.dev)))) ∧
      ((p.trigger = .level ∧ p.level = false ∨ p.trigger = .edge ∧ p.level = true) →
          (p.state = .chime ∨ p.state = .opened) →
        exec (.pttChange k) s = .next (settled s (closePage k (setPage k q s.dev)))))) ∧
  (∀ (k : PageSlot) (d : Dev) (p : Page), pageOf d k = p →
     let locked (q : Page) : Page := { q with lockout := q.lockout || (decide (q.trigger = .edge) || q.seen) }
     let idle (q : Page) : Page :=
       { q with state := .idle, started := false, held := 0, chimeGen := none, waitCount := 0, talkCount := 0 }
     let pending : Prop := ∃ b : Building, bsHas p.released b = true ∧ zoneMap p.zones b ≠ 0
     let waits (x : Dev) : Dev :=
       let y := setPage k { p with state := .waiting, waitCount := 0, waitOrder := x.pu.nextWait } x
       { y with pu := { y.pu with nextWait := x.pu.nextWait + 1 } }
     (d.ah.hold = true → openRequest k d = setPage k (locked p) d) ∧
     (d.ah.hold = false → pending → openRequest k d = waits d) ∧
     (d.ah.hold = false → ¬pending → openRequest k d = claimPage k d) ∧
     (p.state ≠ .waiting ∨ pending → reclaimPage k d = d) ∧
     (p.state = .waiting → ¬pending → reclaimPage k d = claimPage k d) ∧
     (∀ a as d1, claimSet (.page k) (match p.urgency with | .normal => .normal | .urgent => .urgent) p.zones d =
         (a, as, d1) →
       let q : Page := pageOf (claimPage k d) k
       let opened : Page :=
         { p with
           state := .opened, started := false, held := grantedSet as, chimeGen := none, waitCount := 0, talkCount := 0
           released := p.released &&& ~~~grantedSet as }
       (∀ b : Building, bsHas (pageOf (claimPage k d) (otherSlot k)).released b =
         (bsHas (pageOf d (otherSlot k)).released b && !as.any fun x => x.1 == b && x.2 != .held .priority)) ∧
       (a = .held → (p.state = .waiting → q = p) ∧
         (p.state ≠ .waiting → q = { p with state := .waiting, waitCount := 0, waitOrder := d.pu.nextWait })) ∧
       (a = .noneLeft → q = locked (idle p)) ∧
       (a = .granted →
         (p.chimePattern = none ∨ (∃ n, p.chimePattern = some n ∧ patternOf d n = []) ∨
             (∀ g : GenNo, (d.rs.gens[g]).isSome = true) →
           q = opened ∧ ∃ z, barrierOf (claimPage k d) (.page k) = some z ∧ z.source = .mic k) ∧
         (∀ n g, p.chimePattern = some n → patternOf d n ≠ [] → d.rs.gens[g] = none →
           (∀ h : GenNo, h < g → (d.rs.gens[h]).isSome = true) →
           q = { opened with state := .chime, chimeGen := some g } ∧
           (claimPage k d).rs.gens[g] = some { user := .chime k, phase := .armed, steps := patternOf d n, since := 0
                                               order := d.rs.nextAssign } ∧
           ∃ z, barrierOf (claimPage k d) (.page k) = some z ∧ z.source = .tg g))) ∧
     (∀ (e : Env) (members : BuildingSet) (d' : Dev), pageStarted e k members d = d' →
       (p.started = true ∨ p.state = .idle ∨ p.state = .waiting → d' = d) ∧
       (p.started = false → p.state = .chime ∨ p.state = .opened → members = 0 → pageOf d' k = locked (idle p)) ∧
       (p.started = false → p.state = .opened → members ≠ 0 →
         d' = setPage k { p with held := p.held &&& members, started := true, talkCount := 0 } d) ∧
       (∀ g u, p.started = false → p.state = .chime → members ≠ 0 → p.chimeGen = some g → d.rs.gens[g] = some u →
         pageOf d' k = { p with held := p.held &&& members, started := true } ∧
         d'.rs.gens[g] = some { u with phase := .sounding, since := e.clock })) ∧
     (∀ d', chimeOver k d = d' →
       (p.state ≠ .chime ∨ p.chimeGen = none → d' = d) ∧
       (p.state = .chime → p.chimeGen.isSome = true →
         pageOf d' k = { p with chimeGen := none, state := .opened, talkCount := 0 } ∧
         (p.started = true → d'.ta.barriers = d.ta.barriers ∧ ∀ b : Building, d'.ta.rows[b] =
           if bsHas p.held b = true ∧ holdsFirmly d (.page k) b = true ∧ (d.ta.rows[b]).fired = true then
             { d.ta.rows[b] with source := .mic k } else d.ta.rows[b]) ∧
         (p.started = false → d'.ta.rows = d.ta.rows ∧ ∃ z, barrierOf d' (.page k) = some z ∧ z.source = .mic k))) ∧
     (∀ b : Building, ∃ left, pageForget k b d = setPage k { p with released := left } d ∧
       ∀ c : Building, bsHas left c = true ↔ bsHas p.released c = true ∧ c ≠ b) ∧
     (∀ (b : Building) (d' : Dev), pageNotice k b d = d' →
       ((p.state ≠ .chime ∧ p.state ≠ .opened) ∨ bsHas p.held b = false → d' = d) ∧
       (p.state = .chime ∨ p.state = .opened → bsHas p.held b = true →
         (bsRemove p.held b ≠ 0 → d' = setPage k { p with held := bsRemove p.held b } d) ∧
         (bsRemove p.held b = 0 → pageOf d' k = locked (idle p) ∧
           ∀ g, p.chimeGen = some g → d.rs.waitList = [] → d'.rs.gens[g] = none)))) ∧
  (∀ (b : Building) (d d' : Dev), puTrunkFree b d = d' →
     (∀ (k : PageSlot), pageOf d' k = { pageOf d k with released := bsRemove (pageOf d k).released b }) ∧
     d'.agenda = d.agenda ++
       (if d.pu.a.state = .waiting then
         if d.pu.b.state = .waiting then
           if d.pu.b.waitOrder < d.pu.a.waitOrder then [.pageReclaim .b, .pageReclaim .a]
           else [.pageReclaim .a, .pageReclaim .b]
         else [.pageReclaim .a]
       else if d.pu.b.state = .waiting then [.pageReclaim .b] else [])) ∧
  (∀ (k : PageSlot) (d : Dev) (p : Page), pageOf d k = p →
     ∀ d1, d1 = releaseSet (.page k) p.held d →
       closePage k d = setPage k
         { p with
           state := .idle, started := false, held := 0, chimeGen := none, waitCount := 0, talkCount := 0
           released := p.released ||| p.held }
         (match p.chimeGen with
         | some g => freeGen g (setPage k { p with chimeGen := none } d1)
         | none => d1))

/-! ## Drills (chapter 9) -/

/-- SCRIPT SET (R147): RANGE with the script unchanged, or the script takes the carried values; a pattern of 0 makes
it undefined, and then the clear limit is not examined. DRILL START, DRILL SCHEDULE, DRILL CANCEL and DRILL
RECORD GET (R148, R149, R157, R160): the checks in their order, and what each accepted request does; the reply
to DRILL RECORD GET shows the read flag as it was (the model's choice, log entry 9). To cancel a drill (R157): a
clip awaited is withdrawn; in EVAC and MUSTER the buildings are released, the generator freed, the fast flags
cleared and the lamps wanted OFF; the record closes ABORTED, or in ALLCLEAR with the outcome it had, and DRILL
ENDED is latched. That DRILL SCHEDULE compares the moment as a date, not around the calendar's wrap, is the
model's choice (log entry 51, DEDUCED). -/
def Obligations.ScriptAndDrillRequests : Prop :=
  (∀ (tag script preClip preDelay pattern evacuation clearLimit allClear : Nat) (s : State), takesAtOnce s = true →
     let ask : Request := .scriptSet script preClip preDelay pattern evacuation clearLimit allClear
     let bad : Prop :=
       3 < script ∨ 64 < preClip ∨ 120 < preDelay ∨ 32 < pattern ∨ (evacuation < 30 ∨ 600 < evacuation) ∨
         64 < allClear ∨ (pattern ≠ 0 ∧ (clearLimit < 60 ∨ 1800 < clearLimit ∨ clearLimit < evacuation))
     (bad → exec (.scriptSet tag script preClip preDelay pattern evacuation clearLimit allClear) s =
       .next (replied tag ask .range [] s)) ∧
     (¬bad → ∀ n : Fin 4, n.1 = script →
       exec (.scriptSet tag script preClip preDelay pattern evacuation clearLimit allClear) s =
         .next (replied tag ask .ok [] { s with dev := { s.dev with dc := { s.dev.dc with
           scripts := put s.dev.dc.scripts n (if pattern = 0 then none else some
             { preClip := if preClip = 0 then none else some preClip, preDelay := preDelay, pattern := pattern,
               evacuation := evacuation, clearLimit := clearLimit
               allClear := if allClear = 0 then none else some allClear }) } } }))) ∧
  (∀ (tag : Nat) (s : State), takesAtOnce s = true →
     (∀ (script : Nat) (set : BuildingSet),
       let answered (res : Result) : Prop :=
         exec (.drillStart tag script set) s = .next (replied tag (.drillStart script set) res [] s)
       (3 < script ∨ set = 0 → answered .range) ∧
       (∀ n : Fin 4, n.1 = script → set ≠ 0 →
         (s.dev.ah.hold = true ∨ s.dev.dc.drill.isSome = true → answered .refused) ∧
         (s.dev.ah.hold = false → s.dev.dc.drill = none →
           (s.tb.time = none → answered .noTime) ∧
           (s.tb.time.isSome = true →
             (s.dev.dc.scripts[n] = none ∨ (∃ x, s.dev.dc.scripts[n] = some x ∧ patternOf s.dev x.pattern = []) →
               answered .notFound) ∧
             (∀ x, s.dev.dc.scripts[n] = some x → patternOf s.dev x.pattern ≠ [] →
               exec (.drillStart tag script set) s =
                 .next (replied tag (.drillStart script set) .ok (num2 s.dev.dc.nextRecord)
                   (settled s (startDrill (envOf s) n x set s.dev).2))))))) ∧
     (∀ (script : Nat) (set : BuildingSet) (moment : Stamp),
       let answered (res : Result) : Prop :=
         exec (.drillSchedule tag script set moment) s = .next (replied tag (.drillSchedule script set moment) res [] s)
       let sec (t : Stamp) : Nat := t.day * 86400 + t.sec
       (3 < script ∨ set = 0 ∨ 36524 < moment.day ∨ 86399 < moment.sec → answered .range) ∧
       (∀ n : Fin 4, n.1 = script → set ≠ 0 → moment.day ≤ 36524 → moment.sec ≤ 86399 →
         (s.dev.ah.hold = true ∨ s.dev.dc.drill.isSome = true → answered .refused) ∧
         (s.dev.ah.hold = false → s.dev.dc.drill = none →
           (s.tb.time = none → answered .noTime) ∧
           (∀ now, s.tb.time = some now →
             (sec moment ≤ sec now ∨ sec now + 604800 < sec moment → answered .range) ∧
             (sec now < sec moment → sec moment ≤ sec now + 604800 →
               (s.dev.dc.scripts[n] = none ∨ (∃ x, s.dev.dc.scripts[n] = some x ∧ patternOf s.dev x.pattern = []) →
                 answered .notFound) ∧
               (∀ x, s.dev.dc.scripts[n] = some x → patternOf s.dev x.pattern ≠ [] →
                 exec (.drillSchedule tag script set moment) s =
                   .next (replied tag (.drillSchedule script set moment) .ok []
                     { s with dev := { s.dev with dc := { s.dev.dc with
                         slot := some { script := n, buildings := set, moment := moment } } } }))))))) ∧
     ((s.dev.dc.drill = none →
       (s.dev.dc.slot = none →
         exec (.drillCancel tag) s = .next (replied tag .drillCancel .notFound [] s)) ∧
       (s.dev.dc.slot.isSome = true → exec (.drillCancel tag) s = .next (replied tag .drillCancel .ok []
         { s with dev := { s.dev with dc := { s.dev.dc with slot := none } } }))) ∧
       (∀ dr, s.dev.dc.drill = some dr → ∃ d, d = cancelDrill (envOf s) dr s.dev ∧
         exec (.drillCancel tag) s = .next (replied tag .drillCancel .ok [] (settled s d)) ∧ d.dc.drill = none ∧
         d.dc.slot = s.dev.dc.slot ∧ condHas d.conds .drillEnded = true)) ∧
     (∀ number : Nat,
       ((number = 0 ∧ s.dev.dc.records = []) ∨ (number ≠ 0 ∧ ∀ r ∈ s.dev.dc.records, r.number ≠ number) →
         exec (.drillRecordGet tag number) s = .next (replied tag (.drillRecordGet number) .notFound [] s)) ∧
       (∀ r, (if number = 0 then s.dev.dc.records.getLast? else recordOf s.dev number) = some r →
         exec (.drillRecordGet tag number) s = .next (replied tag (.drillRecordGet number) .ok (drillRecordData s.dev r)
           (if r.outcome = none then s else { s with dev := { s.dev with dc := { s.dev.dc with
             records := s.dev.dc.records.map fun x =>
               if x.number = r.number then { x with read := true } else x } } }))))) ∧
  (∀ (e : Env) (d : Dev) (dr : Drill), d.dc.drill = some dr →
     let withdrawn : Dev := match dr.clip with
       | some id => endRequest e id .cancelled ordinaryEnd d
       | none => d
     let ended (o : RecordOutcome) (x : Dev) : Dev := { x with
       dc := { x.dc with
         drill := none
         records := x.dc.records.map fun r =>
           if r.number = dr.record ∧ r.outcome = none then
             { r with outcome := some o, endTime := latestOf e.now (latestStamp r) }
           else r }
       conds := x.conds ||| 0x800 }
     (dr.phase = .pre → cancelDrill e dr d = ended .aborted withdrawn) ∧
     (dr.phase = .allClear → cancelDrill e dr d = ended (dr.outcome.getD .complete) withdrawn) ∧
     (dr.phase = .evac ∨ dr.phase = .muster → ∃ (held : BuildingSet) (x : Dev),
       (∀ b : Building, bsHas held b = true ↔ dr.at_[b] = .granted ∨ dr.at_[b] = .sounding) ∧
       cancelDrill e dr d = ended .aborted x ∧ x.dc.records = d.dc.records ∧
       (∀ freed, freed = releaseSet .drill held withdrawn →
         x.ta = (match dr.gen with | some g => freeGen g freed | none => freed).ta ∧
         x.rs = (match dr.gen with | some g => freeGen g freed | none => freed).rs) ∧
       ∀ b : Building, bsHas dr.buildings b = true → (x.bus[b]).drillFast = false ∧
         ∀ r, rowOfKind d.bus[b] .marshalPanel = some r → rowAt d.bus[b] r.addr = some r →
           (x.dc.lamps[b]).wanted = some .off))

/-- Lamps, presses, mutes and records. A wanted lamp is placed when none is outstanding (R154, R169), a panel that
shows another state is corrected, and one that shows a wanted OFF is wanted no longer (log entry 27); a LAMP's
outcome clears its flag, and DC gives the lamp up when it was discarded for alarm mode or removal, AH keeps it. A
press gives a drill building its clear time, and an alarm building its own, the first time only: the reply less
the age, no earlier than the start (R155, R167); with the last one a MUSTER is over (R156). AH's MUTE stamps the
mute time once (R166). Neither is written while the start that bounds it is absent, without a press or a campus
time, with no drill or no open alarm record, or by a MUTE that FAILED or was DISCARDED (R155, R166, R167). A
record is opened open and unread, the oldest of 8 giving way (R158; a drill's activation count of 0 is the model's
choice, log entry 41), an alarm record with the buildings that have a station and its first activation (R165); a
record closes once, no earlier than its latest stamp (R159). That only the outcome of the very LAMP that is
outstanding clears the flag, that the line-quiet time counts among the stamps a record's end may not precede, and
that a record's stamps are compared as dates across the calendar's wrap, a press age that reaches back over it
giving the clamped time, is the model's choice (log entries 35, 32, 36 and 62). -/
def Obligations.LampsPressesAndRecords : Prop :=
  (∀ (who : Keeper) (b : Building) (d d' : Dev) (k : LampKeep), lampOf who d b = k →
     (k.wanted = none ∨ k.outstanding.isSome = true → placeLamp who b d = d) ∧
     (∀ w, k.wanted = some w → k.outstanding = none → placeLamp who b d = d' →
       (rowOfKind d.bus[b] .marshalPanel = none → d' = setLamp who b { k with wanted := none, full := false } d) ∧
       (∀ r, rowOfKind d.bus[b] .marshalPanel = some r → rowAt d.bus[b] r.addr = some r →
         (r.state = .offline → d' = setLamp who b { k with full := false } d) ∧
         (r.state ≠ .offline →
           ((if (d.bus[b]).alarm then 2 else 6) ≤ (d.bus[b]).queue.length →
             d' = setLamp who b { k with full := true } d) ∧
           ((d.bus[b]).queue.length < (if (d.bus[b]).alarm then 2 else 6) →
             lampOf who d' b = { wanted := some w, outstanding := some d.serial, full := false } ∧
             (d'.bus[b]).queue = (d.bus[b]).queue ++
               [{ addr := r.addr, op := .lamp w, owner := keeperOwner who, serial := d.serial }])))) ∧
     (∀ lamp : LampState,
       (k.wanted = none ∨ k.outstanding.isSome = true → lampShown who b lamp d = d) ∧
       (∀ w, k.wanted = some w → k.outstanding = none →
         (w ≠ lamp → lampShown who b lamp d = placeLamp who b d) ∧
         (w = lamp → w = .off → lampShown who b lamp d = setLamp who b { k with wanted := none, full := false } d) ∧
         (w = lamp → w ≠ .off → lampShown who b lamp d = d))) ∧
     (∀ (c : Command) (l : LampState), c.op = .lamp l →
       let k1 : LampKeep := if k.outstanding = some c.serial then { k with outstanding := none } else k
       (∀ ans at_,
         (k.wanted = some l → lampOutcome who b c (.done ans at_) d =
           setLamp who b (if l = .off then { k1 with wanted := none } else k1) d) ∧
         (k.wanted ≠ some l → lampOutcome who b c (.done ans at_) d = placeLamp who b (setLamp who b k1 d))) ∧
       lampOutcome who b c .failed d = setLamp who b k1 d ∧
       lampOutcome who b c (.discarded .stationLost) d = setLamp who b k1 d ∧
       (∀ reason, reason = .removed ∨ reason = .alarmMode → lampOutcome who b c (.discarded reason) d =
         setLamp who b (if who = .dc then { k1 with wanted := none } else k1) d))) ∧
  (∀ (e : Env) (b : Building) (age : Nat) (reply start : Stamp) (d : Dev) (r : Record),
     let seconds (t : Stamp) : Nat := t.day * 86400 + t.sec
     let pressed : Nat := max (seconds start) (seconds reply - age)
     let written (x : RecordBuilding) : RecordBuilding := { x with
       clear := some (if (seconds reply : Int) - age < seconds start then start
         else { day := pressed / 86400, sec := pressed % 86400 })
       elapsed := some (pressed - seconds start) }
     let clears (d' : Dev) : Prop := d' = { d with dc := { d.dc with records := d.dc.records.map fun q =>
       if q.number = r.number then { q with at_ := put q.at_ b (written q.at_[b]) } else q } }
     (∀ (x : Option Nat) (y : Option Stamp) (z : Option ImpulseAnswer) (u : DiscardReason),
       drillClear e b x none d = d ∧ drillClear e b none y d = d ∧ alarmClear b x none d = d ∧ alarmClear b none y d = d ∧
       muteOutcome b (.done z none) d = d ∧ muteOutcome b .failed d = d ∧ muteOutcome b (.discarded u) d = d ∧
       (d.dc.drill = none → drillClear e b x y d = d) ∧
       (d.ah.record = none → alarmClear b x y d = d ∧ muteOutcome b (.done z y) d = d)) ∧
     (∀ dr, d.dc.drill = some dr → recordOf d dr.record = some r →
       (r.evacStart = none → ∀ x y, drillClear e b x y d = d) ∧
       ((dr.phase ≠ .evac ∧ dr.phase ≠ .muster) ∨ bsHas dr.buildings b = false ∨ (r.at_[b]).clear.isSome = true →
         drillClear e b (some age) (some reply) d = d) ∧
       (r.evacStart = some start → bsHas dr.buildings b = true → (r.at_[b]).clear = none → ∃ d1, clears d1 ∧
         (dr.phase = .evac → drillClear e b (some age) (some reply) d = d1) ∧
         (dr.phase = .muster → drillClear e b (some age) (some reply) d =
           if ∀ c : Building, bsHas dr.buildings c = true → c = b ∨ (r.at_[c]).clear.isSome = true then
             enterAllClear e .complete d1
           else d1))) ∧
     (∀ n, d.ah.record = some n → recordOf d n = some r →
       (d.ah.hold = false ∨ bsHas r.buildings b = false ∨ (r.at_[b]).clear.isSome = true →
         alarmClear b (some age) (some reply) d = d) ∧
       (d.ah.hold = true → r.start = some start → bsHas r.buildings b = true → (r.at_[b]).clear = none →
         clears (alarmClear b (some age) (some reply) d)) ∧
       (r.start = none → (∀ x y, alarmClear b x y d = d) ∧ ∀ o, muteOutcome b o d = d) ∧
       (∀ ans, (bsHas r.buildings b = false ∨ (r.at_[b]).mute.isSome = true →
           muteOutcome b (.done ans (some reply)) d = d) ∧
         (r.start = some start → bsHas r.buildings b = true → (r.at_[b]).mute = none →
           muteOutcome b (.done ans (some reply)) d =
             { d with dc := { d.dc with records := d.dc.records.map fun q =>
               if q.number = n then
                 { q with
                   at_ := put q.at_ b
                     { q.at_[b] with mute := some (if seconds start < seconds reply then reply else start) } }
               else q } })))) ∧
  (∀ (kind : RecordKind) (set : BuildingSet) (start : Option Stamp) (d : Dev),
     let fresh : Record :=
       { number := d.dc.nextRecord, kind := kind, buildings := set, start := start, evacStart := none
         at_ := Vector.replicate 8 { mute := none, clear := none, elapsed := none }
         activations := if kind = .alarm then 1 else 0, lastActivation := if kind = .alarm then start else none
         lineQuiet := none, endTime := none, outcome := none, read := false }
     let out (old : List Record) : Dev := { d with dc := { d.dc with
       records := old ++ [fresh], nextRecord := if d.dc.nextRecord < 65535 then d.dc.nextRecord + 1 else 1 } }
     (d.dc.records.length < 8 → openRecord kind set start d = (d.dc.nextRecord, out d.dc.records)) ∧
     (∀ oldest rest, d.dc.records = oldest :: rest → 8 ≤ d.dc.records.length → openRecord kind set start d =
       (d.dc.nextRecord, if oldest.outcome.isSome && !oldest.read then
         { out rest with conds := d.conds ||| 0x2000 } else out rest))) ∧
  (∀ (now : Option Stamp) (n : Nat) (o : RecordOutcome) (d : Dev), closeRecord now n o d =
     { d with dc := { d.dc with records := d.dc.records.map fun r =>
       if r.number = n ∧ r.outcome = none then
         { r with outcome := some o, endTime := latestOf now (latestStamp r) } else r } }) ∧
  (∀ (e : Env) (d : Dev), ∃ r ∈ (beginHold e d).dc.records,
     r = { number := d.dc.nextRecord, kind := .alarm, buildings := r.buildings, start := e.now, evacStart := none
           at_ := Vector.replicate 8 { mute := none, clear := none, elapsed := none }, activations := 1
           lastActivation := e.now, lineQuiet := none, endTime := none, outcome := none, read := false } ∧
     (∀ b : Building, bsHas r.buildings b = !(d.bus[b]).rows.isEmpty) ∧
     (beginHold e d).ah.record = some d.dc.nextRecord ∧ (beginHold e d).ah.hold = true)

/-- The phases of a drill. It starts in PRE with its record opened (R148): a pre-clip that AM takes plays first,
its outcome, a script without one, or one that AM refuses (REFUSED, NOTFOUND or BUSY) begins the pre-delay, and
one of 0 enters EVAC at that moment (R151). Entering EVAC stamps the record, takes a generator, claims every zone
of every drill building at DRILL priority, asks TA to apply what is granted with that generator as source, wants
every panel's lamp FLASH and polls panels fast, in this order (R152); that PU hears of a chime taken with the
generator after all of this is the model's choice (log entry 59). Entering ALLCLEAR fixes the outcome, polls
slowly, wants the lamps OFF, and plays the all-clear clip, or ends the drill where AM takes none (R156); the
clip's outcome, whatever it is, ends the drill with the fixed outcome. A drill that ends closes its record and
latches DRILL ENDED. In EVAC (R153) STARTED makes members SOUND and, the first time, starts the generator; a
member left out or a building that FAILED is CLAIMING again, and its trunk-free event has it claimed; what a claim
is answered becomes its trunk state, and what is granted is applied with the generator as source. -/
def Obligations.DrillPhases : Prop :=
  (∀ (e : Env) (n : Fin 4) (x : Script) (set : BuildingSet) (d d0 d' : Dev) (num : Nat) (dr : Drill),
     startDrill e n x set d = (num, d') → d0 = (openRecord (.drill n) set e.now d).2 →
     dr = { script := x, buildings := set, record := d.dc.nextRecord, phase := .pre, count := 0, clip := none
            at_ := Vector.replicate 8 .none, gen := none, genStarted := false, outcome := none } →
     num = d.dc.nextRecord ∧
     (∀ c len, x.preClip = some c → d.ah.hold = false → clipLength d c = some len →
       (∀ q ∈ d.am.queue, q.origin ≠ .drill) → ∃ id, d'.dc = { d0.dc with drill := some { dr with clip := some id } } ∧
         ∃ q ∈ d'.am.queue, q.id = id ∧ q.origin = .drill ∧ q.clip = c ∧ q.length = len ∧ q.zones = allZones set ∧
           q.prio = .drill ∧ q.count = 60 ∧ q.playing = false) ∧
     (x.preClip = none ∨ d.ah.hold = true ∨ (∃ c, x.preClip = some c ∧ clipLength d c = none) ∨
         (∃ q ∈ d.am.queue, q.origin = .drill) →
       ∀ d1, d1 = { d0 with dc := { d0.dc with drill := some dr } } →
       (x.preDelay ≠ 0 → d' = d1) ∧ (x.preDelay = 0 → d' = enterEvac e d1))) ∧
  (∀ (e : Env) (d d' : Dev) (dr : Drill), d.dc.drill = some dr → enterEvac e d = d' →
     (∃ x, d'.dc.drill = some x ∧ x.phase = .evac ∧ x.count = 0 ∧ x.clip = none ∧ x.genStarted = false ∧
       x.script = dr.script ∧ x.buildings = dr.buildings ∧ x.record = dr.record ∧
       (∃ g, x.gen = some g ∧ ∃ u, d'.rs.gens[g] = some u ∧ u.user = .drill ∧ u.phase = .armed ∧
         u.steps = patternOf d dr.script.pattern) ∧
       (∀ g, (∀ h : GenNo, h < g → (d.rs.gens[h]).isSome = true) → d.rs.gens[g] = none → x.gen = some g ∧
         ∀ b : Building, bsHas dr.buildings b = true →
           x.at_[b] = drillAnswer (answerFor d .drill .drill false (allZones dr.buildings) b).2) ∧
       (∀ (b : Building) (g : GenNo), bsHas dr.buildings b = true → x.at_[b] = .granted → x.gen = some g →
         ∃ z, barrierOf d' .drill = some z ∧ z.source = .tg g ∧
           ((d'.ta.rows[b]).releasing = false → (∃ q, (d'.ta.rows[b]).holder = .claimant .drill q) →
             bsHas z.members b = true)) ∧
       (∀ d1 d2 g, d1 = { d with dc := { d.dc with
             records := d.dc.records.map fun r => if r.number = dr.record then { r with evacStart := e.now } else r
             drill := some { dr with phase := .evac, count := 0, clip := none } } } →
         takeDrillGen e (patternOf d dr.script.pattern) d1 = (g, d2) →
         d' = setDrillFasts e true (bsList dr.buildings) (wantLamps .dc .flash (bsList dr.buildings)
           (claimForDrill (bsList dr.buildings) { d2 with dc := { d2.dc with
             drill := some { dr with phase := .evac, count := 0, clip := none, gen := some g, genStarted := false } } })))) ∧
     d'.dc.records = d.dc.records.map (fun r => if r.number = dr.record then { r with evacStart := e.now } else r) ∧
     ∀ b : Building, bsHas dr.buildings b = true → (d'.bus[b]).drillFast = true ∧
       (∀ r, rowOfKind d.bus[b] .marshalPanel = some r → rowAt d.bus[b] r.addr = some r →
         (d'.dc.lamps[b]).wanted = some .flash)) ∧
  (∀ (e : Env) (o : RecordOutcome) (d d' : Dev) (dr : Drill), d.dc.drill = some dr → enterAllClear e o d = d' →
     (∀ b : Building, bsHas dr.buildings b = true → (d'.bus[b]).drillFast = false ∧
       (∀ r, rowOfKind d.bus[b] .marshalPanel = some r → rowAt d.bus[b] r.addr = some r →
         (d'.dc.lamps[b]).wanted = some .off)) ∧
     (dr.script.allClear = none ∨ d.ah.hold = true ∨ (∃ c, dr.script.allClear = some c ∧ clipLength d c = none) ∨
         (∃ q ∈ d.am.queue, q.origin = .drill) →
       d'.dc.drill = none ∧ condHas d'.conds .drillEnded = true ∧
       d'.dc.records = d.dc.records.map fun r =>
         if r.number = dr.record ∧ r.outcome = none then
           { r with outcome := some o, endTime := latestOf e.now (latestStamp r) } else r) ∧
     (∀ c len, dr.script.allClear = some c → d.ah.hold = false → clipLength d c = some len →
       (∀ q ∈ d.am.queue, q.origin ≠ .drill) → d'.dc.records = d.dc.records ∧ ∃ id,
         d'.dc.drill = some { dr with phase := .allClear, outcome := some o, clip := some id } ∧
         ∃ q ∈ d'.am.queue, q.id = id ∧ q.origin = .drill ∧ q.clip = c ∧ q.zones = allZones dr.buildings ∧
           q.prio = .drill)) ∧
  (∀ (e : Env) (id : Nat) (d : Dev) (dr : Drill), d.dc.drill = some dr →
     (dr.clip ≠ some id → clipOver e id d = d) ∧
     (dr.clip = some id →
       (dr.phase = .pre → dr.script.preDelay ≠ 0 →
         clipOver e id d = { d with dc := { d.dc with drill := some { dr with clip := none, count := 0 } } }) ∧
       (dr.phase = .pre → dr.script.preDelay = 0 → clipOver e id d =
         enterEvac e { d with dc := { d.dc with drill := some { dr with clip := none, count := 0 } } }) ∧
       (dr.phase = .allClear → (clipOver e id d).dc.drill = none ∧
         condHas (clipOver e id d).conds .drillEnded = true ∧
         ∀ o, dr.outcome = some o → clipOver e id d = { d with
           conds := d.conds ||| 0x800
           dc := { d.dc with
             drill := none
             records := d.dc.records.map fun r =>
               if r.number = dr.record ∧ r.outcome = none then
                 { r with outcome := some o, endTime := latestOf e.now (latestStamp r) } else r } }))) ∧
  (∀ (e : Env) (d : Dev) (dr : Drill), d.dc.drill = some dr →
     let act (x : Drill) (y : Dev) : Dev := { y with dc := { y.dc with drill := some x } }
     let moved (f : Building → TrunkState) : Drill := { dr with at_ := Vector.ofFn f }
     (∀ members : BuildingSet,
       (dr.phase ≠ .evac → drillStarted e members d = d) ∧
       (dr.phase = .evac → ∀ x, x = moved (fun b => if dr.at_[b] = .granted then
           if bsHas members b then .sounding else .claiming else dr.at_[b]) →
         (members = 0 ∨ dr.genStarted = true ∨ dr.gen = none → drillStarted e members d = act x d) ∧
         (∀ g u, members ≠ 0 → dr.genStarted = false → dr.gen = some g → d.rs.gens[g] = some u →
           drillStarted e members d = act { x with genStarted := true } { d with rs := { d.rs with
             gens := put d.rs.gens g (some { u with phase := .sounding, since := e.clock }) } }))) ∧
     (∀ b : Building,
       (dr.phase = .evac → (dr.at_[b] = .granted ∨ dr.at_[b] = .sounding) →
         drillNotice b d = act (moved fun c => if c = b then .claiming else dr.at_[c]) d) ∧
       (dr.phase ≠ .evac ∨ (dr.at_[b] ≠ .granted ∧ dr.at_[b] ≠ .sounding) → drillNotice b d = d) ∧
       (dr.phase = .evac → dr.at_[b] = .claiming → dcTrunkFree b d = claimForDrill [b] d) ∧
       (dr.phase ≠ .evac ∨ dr.at_[b] ≠ .claiming → dcTrunkFree b d = d)) ∧
     (∀ (which : List Building) (as : Answers) (d1 : Dev) (x : Drill),
       claimSingle .drill .drill false (allZones dr.buildings) which d = (as, d1) →
       x = moved (fun b => match answerOf as b with
         | some .granted => .granted
         | some .excludedDisabled => .excluded
         | some _ => .claiming
         | none => dr.at_[b]) →
       ((∀ p ∈ as, p.2 ≠ .granted) ∨ dr.gen = none → claimForDrill which d = act x d1) ∧
       (∀ p g, p ∈ as → p.2 = .granted → dr.gen = some g → ∃ set : BuildingSet,
         (∀ b : Building, bsHas set b = true ↔ (b, ClaimAnswer.granted) ∈ as) ∧
         claimForDrill which d = applyBuildings .drill set (.tg g) (act x d1))))

/-! ## The alarm hold (chapter 10) -/

/-- The fire input (R163): a level other than the input state is timed while the device runs, and a level that
returns ends the timing. An activation and a quieting (R164, R168): the hold begins at an activation when it is
not in force; during the hold each is only written into the open record. The beginning of the hold (R164) is
made of the drill's end, AH's record, and what it makes of runs, requests, pages, trunks and buses: every active
run ends ABORTED with outcome SUPPRESSED, its origin told and its generator given back, and no run waits (R117);
every request ends ALARM, a clip under way being stopped (R134); an open or waiting page is idle with lockout, what it
holds being released and its chime generator given back, and every released set is empty (R146); the drill ends ALARM OVERRIDE with its lamps no longer wanted (R161);
every bus is in ALARM mode with its alarm-fast flag set, MUTE and LAMP ON alone in its queue, and that LAMP ON
wanted and outstanding (R169); ALARM is latched. ALARM RESUME (R171): NOTFOUND without the hold, REFUSED while
the input state is ACTIVE; otherwise the hold ends, its record is closed RESUMED, every bus is NORMAL with its
fast flag clear, a row held by ALARM is free and MUTES its zone switch, or awaits its report where the switch is
OFFLINE or absent (R99), and every panel's lamp is wanted OFF and placed where none is outstanding. That a clip
under way with CPLAY released leaves the player IDLE at once, that the end time of the RESUMED record is no
earlier than its line-quiet time, and that a second MUTE of TA's takes the row from one still out, is the
model's choice (log entries 15, 32 and 54). -/
def Obligations.HoldBeginsAndEnds : Prop :=
  (∀ (v : Bool) (s : State),
     (s.dev.ah.level = v → exec (.fireLevelChange v) s = .next s) ∧
     (s.dev.ah.level ≠ v → exec (.fireLevelChange v) s = .next { s with dev := { s.dev with ah := { s.dev.ah with
       level := v, timing := if isRunning s.tb && v != s.dev.ah.active then some s.tb.clock else none } } })) ∧
  (∀ (s : State),
     (isRunning s.tb = false → exec .activation s = .next s ∧ exec .quieting s = .next s) ∧
     (isRunning s.tb = true → s.dev.ah.timing.isSome = true → s.dev.ah.level = true → s.dev.ah.active = false →
       (s.dev.ah.hold = false → ∃ t, exec .activation s = .next t ∧ t.dev.ah.hold = true ∧ t.dev.ah.active = true ∧
         trunksForced t.dev = true ∧ condHas t.dev.conds .alarm = true ∧
         (∀ b : Building, (t.dev.bus[b]).alarm = true) ∧
         t = settled s (beginHold (envOf s) { s.dev with ah := { s.dev.ah with active := true, timing := none } })) ∧
       (∀ n, s.dev.ah.hold = true → s.dev.ah.record = some n → s.dev.agenda = [] →
         exec .activation s = .next { s with dev := { s.dev with
           ah := { s.dev.ah with active := true, timing := none }
           dc := { s.dev.dc with records := s.dev.dc.records.map fun r =>
             if r.number = n then
               { r with
                 activations := min 255 (r.activations + 1)
                 lastActivation := (match s.tb.time with | some t => some t | none => r.lastActivation) }
             else r } } })) ∧
     (isRunning s.tb = true → s.dev.ah.timing.isSome = true → s.dev.ah.level = false → s.dev.ah.active = true →
       s.dev.agenda = [] →
       (s.dev.ah.hold = false → exec .quieting s = .next { s with dev := { s.dev with
         ah := { s.dev.ah with active := false, timing := none } } }) ∧
       (∀ n, s.dev.ah.hold = true → s.dev.ah.record = some n →
         exec .quieting s = .next { s with dev := { s.dev with
           ah := { s.dev.ah with active := false, timing := none }
           dc := { s.dev.dc with records := s.dev.dc.records.map fun r =>
             if r.number = n then
               { r with lineQuiet := (match s.tb.time with | some t => some t | none => r.lineQuiet) }
             else r } } }))) ∧
  (∀ (tag : Nat) (s : State), takesAtOnce s = true →
     (s.dev.ah.hold = false → exec (.alarmResume tag) s = .next (replied tag .alarmResume .notFound [] s)) ∧
     (s.dev.ah.hold = true → s.dev.ah.active = true →
       exec (.alarmResume tag) s = .next (replied tag .alarmResume .refused [] s)) ∧
     (s.dev.ah.hold = true → s.dev.ah.active = false → ∃ d, d = resumeHold (envOf s) s.dev ∧
       exec (.alarmResume tag) s = .next (replied tag .alarmResume .ok [] (settled s d)) ∧
       d.ah.hold = false ∧ d.ah.record = none ∧
       (∀ b : Building, (d.bus[b]).alarm = false ∧ (d.bus[b]).alarmFast = false ∧ (d.ta.rows[b]).holder ≠ .alarm) ∧
       (∀ n r, s.dev.ah.record = some n → r ∈ d.dc.records → r.number = n → r.outcome.isSome = true))) ∧
  (∀ (e : Env) (d d0 d1 d2 : Dev) (n : Nat), d0 = dcAlarm e { d with ah := { d.ah with hold := true } } →
     openRecord .alarm (stationedBuildings d0) e.now d0 = (n, d1) →
     d2 = forceTrunks (puAlarm (amAlarm e (rsAlarm e { d1 with ah := { d1.ah with record := some n } }))) →
     beginHold e d = { alarmBuses e buildings d2 with conds := (alarmBuses e buildings d2).conds ||| condBit .alarm }) ∧
  (∀ (e : Env) (d d' : Dev), rsAlarm e d = d' →
     d'.rs.waitList = [] ∧ d'.rs.startOrder = [] ∧ (∀ g : GenNo, d.rs.gens[g] = none → d'.rs.gens[g] = none) ∧
     ∀ r : RunIx, (d.rs.runs[r] = none → d'.rs.runs[r] = none) ∧ ∀ x, d.rs.runs[r] = some x →
       (x.state = .done → d'.rs.runs[r] = some { x with released := 0 }) ∧
       (x.state ≠ .done → (∀ g, x.gen = some g → d'.rs.gens[g] = none) ∧
         (∀ ref, x.origin = .entry ref → Msg.ringOutcome ref .suppressed ∈ d'.agenda) ∧
         d'.rs.runs[r] = some { x with
           state := .done, gen := none, ending := some .aborted, outcome := some .suppressed, endTime := e.now
           released := 0
           at_ := Vector.ofFn fun b : Building => (x.at_[b]).map fun s =>
             if s ∈ [.claiming, .waiting, .granted, .staged, .playing] then .dropped .aborted else s })) ∧
  (∀ (e : Env) (d d' : Dev), amAlarm e d = d' → (d.am.queue.map fun r => r.id).Nodup → d.am.finished.length ≤ 8 →
     d'.am.queue = [] ∧ d'.am.released = [] ∧ (d.am.queue ≠ [] → condHas d'.conds .announceAbnormal = true) ∧
     (∀ all, all = d.am.finished ++ d.am.queue.map (fun r =>
         { id := r.id, origin := r.origin, clip := r.clip, prio := r.prio, outcome := .alarm, delivered := 0
           endTime := e.now }) →
       d'.am.finished = all.drop (all.length - 8)) ∧
     (∀ r ∈ d.am.queue, r.playing = true →
       (d.am.player = .staging → d'.am.player = .idle) ∧
       (d.am.player = .starting ∨ d.am.player = .playing → d'.am.strobe = .stop ∧
         (d.am.cplay = true → d'.am.player = .stopping ∧ d'.am.stopBy = some (e.clock + Config.msTicks 1000)) ∧
         (d.am.cplay = false → d'.am.player = .idle)))) ∧
  (∀ (k : PageSlot) (d : Dev), pageOf (puAlarm d) k =
     (let p := pageOf d k
      if p.state = .idle then { p with released := 0 } else { p with
        state := .idle, started := false, held := 0, chimeGen := none, waitCount := 0, talkCount := 0, released := 0
        lockout := p.lockout || decide (p.trigger = .edge) || p.seen })) ∧
  (∀ d : Dev, puAlarm d = pageAlarm .b (pageAlarm .a d) ∧
     (d.rs.waitList = [] → ∀ (k : PageSlot) (g : GenNo),
       ((pageOf d k).state = .chime ∨ (pageOf d k).state = .opened) → (pageOf d k).chimeGen = some g →
       (puAlarm d).rs.gens[g] = none) ∧
     ∀ (k : PageSlot) (p : Page), pageOf d k = p → p.state = .chime ∨ p.state = .opened →
       ∀ freed, freed = releaseSet (.page k) p.held d → pageAlarm k d = setPage k
         { p with
           state := .idle, started := false, held := 0, chimeGen := none, waitCount := 0, talkCount := 0, released := 0
           lockout := p.lockout || decide (p.trigger = .edge) || p.seen }
         (match p.chimeGen with
         | some g => freeGen g (setPage k { p with chimeGen := none } freed)
         | none => freed)) ∧
  (∀ (e : Env) (d d' : Dev), dcAlarm e d = d' → (d.dc.drill = none → d' = d) ∧
     ∀ dr, d.dc.drill = some dr → d'.dc.drill = none ∧ condHas d'.conds .drillEnded = true ∧
       d'.dc.records = d.dc.records.map (fun r =>
         if r.number = dr.record ∧ r.outcome = none then
           { r with outcome := some .alarmOverride, endTime := latestOf e.now (latestStamp r) }
         else r) ∧
       (∀ b : Building, d'.dc.lamps[b] = { d.dc.lamps[b] with wanted := none, full := false }) ∧
       (∀ b : Building, bsHas dr.buildings b = true → (d'.bus[b]).drillFast = false) ∧
       ∃ held : BuildingSet, (∀ b : Building, bsHas held b = true ↔ dr.at_[b] = .granted ∨ dr.at_[b] = .sounding) ∧
         ∀ freed, freed = releaseSet .drill held d →
           d'.ta = (match dr.gen with | some g => freeGen g freed | none => freed).ta ∧
           d'.rs = (match dr.gen with | some g => freeGen g freed | none => freed).rs) ∧
  (∀ (e : Env) (d d' : Dev), alarmBuses e buildings d = d' → ∀ b : Building,
     (d'.bus[b]).alarm = true ∧ (d'.bus[b]).alarmFast = true ∧
     ((d.bus[b]).alarm = false → ∃ n,
       (d'.bus[b]).queue =
         (match rowOfKind d.bus[b] .zoneSwitch with
         | some r => [{ addr := r.addr, op := .mute, owner := .ah, serial := n }]
         | none => []) ++
         (match rowOfKind d.bus[b] .marshalPanel with
         | some r => [{ addr := r.addr, op := .lamp .on, owner := .ah, serial := n + 1 }]
         | none => []) ∧
       (∀ c ∈ (d.bus[b]).queue, Msg.cmdOutcome b c (.discarded .alarmMode) ∈ d'.agenda) ∧
       d'.ah.lamps[b] = if (rowOfKind d.bus[b] .marshalPanel).isSome then
         { wanted := some .on, outstanding := some (n + 1), full := false } else d.ah.lamps[b])) ∧
  (∀ (e : Env) (d d' : Dev), resumeHold e d = d' →
     d'.dc.records = d.dc.records.map (fun r =>
       if d.ah.record = some r.number ∧ r.outcome = none then
         { r with outcome := some .resumed, endTime := latestOf e.now (latestStamp r) }
       else r) ∧
     ∀ b : Building, ∃ mute : List Command,
       ((d.ta.rows[b]).holder ≠ .alarm → mute = [] ∧ d'.ta.rows[b] = d.ta.rows[b]) ∧
       ((d.ta.rows[b]).holder = .alarm →
         (rowOfKind d.bus[b] .zoneSwitch = none → mute = [] ∧
           d'.ta.rows[b] = { d.ta.rows[b] with holder := .none, settling := .awaiting }) ∧
         ∀ sw, rowOfKind d.bus[b] .zoneSwitch = some sw → rowAt d.bus[b] sw.addr = some sw →
           (sw.state = .offline → mute = [] ∧
             d'.ta.rows[b] = { d.ta.rows[b] with holder := .none, settling := .awaiting }) ∧
           (sw.state ≠ .offline → 6 ≤ (d.bus[b]).queue.length → mute = [] ∧
             d'.ta.rows[b] = { d.ta.rows[b] with holder := .none, settling := .muting none }) ∧
           (sw.state ≠ .offline → (d.bus[b]).queue.length < 6 → ∃ n,
             mute = [{ addr := sw.addr, op := .mute, owner := .ta, serial := n }] ∧
             d'.ta.rows[b] = { d.ta.rows[b] with holder := .none, settling := .muting (some n) })) ∧
       (rowOfKind d.bus[b] .marshalPanel = none → (d'.bus[b]).queue = (d.bus[b]).queue ++ mute ∧
         d'.ah.lamps[b] = d.ah.lamps[b]) ∧
       ∀ r, rowOfKind d.bus[b] .marshalPanel = some r → rowAt d.bus[b] r.addr = some r →
         let out := (d.ah.lamps[b]).outstanding
         let stays (full : Bool) : Prop := (d'.bus[b]).queue = (d.bus[b]).queue ++ mute ∧
           d'.ah.lamps[b] = { wanted := some .off, outstanding := out, full := full }
         (out.isSome = true ∨ r.state = .offline → stays false) ∧
         (out = none → r.state ≠ .offline →
           (6 ≤ ((d.bus[b]).queue ++ mute).length → stays true) ∧
           (((d.bus[b]).queue ++ mute).length < 6 → ∃ n,
             (d'.bus[b]).queue = (d.bus[b]).queue ++ mute ++
               [{ addr := r.addr, op := .lamp .off, owner := .ah, serial := n }] ∧
             d'.ah.lamps[b] = { wanted := some .off, outstanding := some n, full := false })))

/-! ## The rows of the second event (log entry 4) -/

/-- A row of the table that names what one block does at a second event stands for that second event, the command
SECOND_END, where what it names would happen at it, and has no effect where it would not, or while the device does
not run; that is the model's choice (log entry 4), as it is that a quiet-until, a not-before time and a drill's
moment are compared as dates, not around the calendar's wrap (log entry 51, DEDUCED). What the second event is,
SecondsEndAndShiftsApply says. -/
def Obligations.SecondRowsAreTheirSecondEvent : Prop :=
  ∀ s : State,
    let row (c : Instr) (happens : Prop) : Prop :=
      (isRunning s.tb = true → happens → ∃ t, exec c s = .next t ∧ exec .secondEnd s = .next t) ∧
        (isRunning s.tb = false ∨ ¬happens → exec c s = .next s)
    let new : Option Stamp := nextTime s.tb
    (∀ i : LineNo, row (.impulseIssue i) (∃ l, s.dev.lines[i] = some l ∧ issuesNext s.tb l = true)) ∧
    (∀ i : LineNo, row (.faultProbe i) (∃ l, s.dev.lines[i] = some l ∧ l.fault.isSome = true ∧ 29 ≤ l.faultWait ∧
      l.enabled = true ∧ l.view = .online ∧ l.probe = none)) ∧
    (∀ slot : Nat, row (.entryDue slot) (∃ x ∈ pendingNext s, x.slot = slot ∧ ∃ t, new = some t ∧ x.time = t.sec)) ∧
    (∀ (b : Building) (z : Fin 8), row (.quietEnd b z) (∃ u t, (s.dev.ta.zones[zoneIndex b z]).quiet = some u ∧
      new = some t ∧ u.day * 86400 + u.sec < t.day * 86400 + t.sec)) ∧
    (∀ r : RunIx, row (.ringDeadline r) (∃ x, s.dev.rs.runs[r] = some x ∧ (x.state = .claiming ∨ x.state = .genWait) ∧
      x.count ≤ 1)) ∧
    (∀ id : Nat, row (.eligible id) (∃ r u t, reqOf s.dev id = some r ∧ r.playing = false ∧ r.eligible = false ∧
      r.notBefore = some u ∧ new = some t ∧ u.day * 86400 + u.sec ≤ t.day * 86400 + t.sec)) ∧
    (∀ id : Nat, row (.expired id) (∃ r, reqOf s.dev id = some r ∧ r.playing = false ∧
      (r.eligible = true ∨ eligibleNext s.tb r = true) ∧ r.count ≤ 1)) ∧
    (∀ k : PageSlot, row (.pageWaitLimit k) ((pageOf s.dev k).state = .waiting ∧
      s.link.settings.pageWait ≤ (pageOf s.dev k).waitCount + 1)) ∧
    (∀ k : PageSlot, row (.pageTalkLimit k) ((pageOf s.dev k).state = .opened ∧ (pageOf s.dev k).started = true ∧
      s.link.settings.pageTalk ≤ (pageOf s.dev k).talkCount + 1)) ∧
    row .preDelayEnd (∃ x, s.dev.dc.drill = some x ∧ x.phase = .pre ∧ x.clip = none ∧
      x.script.preDelay ≤ x.count + 1) ∧
    row .evacEnd (∃ x, s.dev.dc.drill = some x ∧ x.phase = .evac ∧ x.script.evacuation ≤ x.count + 1) ∧
    row .clearLimit (∃ x, s.dev.dc.drill = some x ∧ x.phase = .muster ∧ x.script.clearLimit ≤ x.count + 1) ∧
    row .scheduledDrillArrival (∃ x t, s.dev.dc.slot = some x ∧ new = some t ∧
      x.moment.day * 86400 + x.moment.sec ≤ t.day * 86400 + t.sec)

/-- The blocks' parts of a second event where a limit is reached (R48, R55, R111, R112, R126, R142, R143, R150 to
R156): the wait and the talk of a page, counted below their limits, ended with the lockout at them (R138), the count
of a request, the deadline of a run that waits for a generator and of one that claims, the evacuation, and the
scheduled drill in each of its cases. At its deadline a claiming run claims once more, then goes to STAGING or ends.
It is the model's choice that waiting runs end before the claims and a run made at this event does not claim again at
it (log entry 40), and that AM scans after all its counts, so that what expires is recorded before what the scan ends
(log entry 60). The pre-delay counts while no clip is awaited and ends in EVAC (R151); a building still CLAIMING in
EVAC is claimed again (R153); MUSTER at its clear limit goes to ALLCLEAR with outcome TIMEOUT (R156). A request whose
not-before time is reached is eligible and counted at once (R126), one that plays or came at this event is not
counted. A line counts its pace and its fault wait, issues an impulse that is due (R48), and begins its fault probe at
the count of 30 (R55). TT's part is EntriesFallDue. That DC's phase comes before the scheduled arrival, and its lamps
last, is the model's choice (log entry 8). At a minute mark or a step a line is evaluated (R47), issues, then probes
where it is ready (the model's order, log entry 57). PU counts both slots, then WAITING ones claim (log entry 47). TA
places again a STAGE or a MUTE that a full queue refused (R92, R97), and DC and AH a LAMP (R154, R169). The end of
EVAC releases the trunks and the generator; with every building clear the drill goes to ALLCLEAR COMPLETE, else to
MUSTER (R153). That a count already at the clear limit then ends MUSTER at once (log entry 28), and that a not-before
time and a drill's moment are compared as dates, not around the calendar's wrap (log entry 51, DEDUCED), is the
model's choice. -/
def Obligations.LimitsAtTheSecondEvent : Prop :=
  ∀ (e : Env) (d : Dev),
    (∀ (k : PageSlot) (p : Page), pageOf d k = p →
      let shut (released : BuildingSet) : Page := { p with
        state := .idle, started := false, held := 0, chimeGen := none, waitCount := 0, talkCount := 0
        released := released, lockout := p.lockout || decide (p.trigger = .edge) || p.seen }
      (p.state = .waiting → e.settings.pageWait ≤ p.waitCount + 1 →
        countPage e k d = setPage k (shut p.released) d) ∧
      (p.state = .waiting → p.waitCount + 1 < e.settings.pageWait →
        countPage e k d = setPage k { p with waitCount := p.waitCount + 1 } d) ∧
      (p.state = .opened → p.started = true → e.settings.pageTalk ≤ p.talkCount + 1 →
        pageOf (countPage e k d) k = shut (p.released ||| p.held) ∧
          (p.chimeGen = none →
            countPage e k d = setPage k (shut (p.released ||| p.held)) (releaseSet (.page k) p.held d))) ∧
      (p.state = .opened → p.started = true → p.talkCount + 1 < e.settings.pageTalk →
        countPage e k d = setPage k { p with talkCount := p.talkCount + 1 } d) ∧
      ((p.state = .opened ∧ p.started = false) ∨ p.state = .chime ∨ p.state = .idle → countPage e k d = d)) ∧
    (∀ (ev : SecondEvent) (id : Nat) (r : AnnounceReq), reqOf d id = some r → r.playing = false → r.eligible = true →
      (2 ≤ r.count → ∃ q, reqOf (countRequest e ev id d) id = some q ∧ q = { r with count := r.count - 1 }) ∧
      (r.count ≤ 1 → reqOf (countRequest e ev id d) id = none ∧
        condHas (countRequest e ev id d).conds .announceAbnormal = true)) ∧
    (∀ (born : Nat) (r : RunIx) (x : Run), d.rs.runs[r] = some x → x.order < born →
      (∀ q ∈ d.rs.waitList, ∀ z, d.rs.runs[q] = some z → z.gen = none) →
      (x.state = .genWait → x.count ≤ 1 → r ∈ d.rs.waitList →
        ∃ y, (rsSecond e born d).rs.runs[r] = some y ∧ y.state = .done ∧ y.ending = some .deadline) ∧
      (x.state = .claiming → r ∉ d.rs.waitList →
        (rsSecond e born d).rs.runs[r] = some { x with count := x.count - 1 } ∧
        Msg.runReclaim r x.order ∈ (rsSecond e born d).agenda)) ∧
    (∀ (r : RunIx) (x : Run), d.rs.runs[r] = some x →
      (∀ n, n ≠ x.order → runTurn e r n d = d) ∧
      (x.state = .claiming → x.count = 0 → (∃ b : Building, x.at_[b] = some .claiming ∨ x.at_[b] = some .waiting) →
        ∃ y, (runTurn e r x.order d).rs.runs[r] = some y ∧ (y.state = .staging ∨ y.state = .done) ∧
          ∀ b : Building, y.at_[b] ≠ some .claiming ∧ y.at_[b] ≠ some .waiting)) ∧
    (∀ dr, d.dc.drill = some dr → dr.phase = .evac → dr.script.evacuation ≤ dr.count + 1 →
      ∀ dr', (drillSecond e d).dc.drill = some dr' →
        dr'.gen = none ∧ (dr'.phase = .muster ∨ dr'.phase = .allClear)) ∧
    (∀ (ev : SecondEvent) (p : DrillPlan) (t : Stamp), d.dc.slot = some p → ev.new = some t →
      (p.moment.day * 86400 + p.moment.sec ≤ t.day * 86400 + t.sec →
        dcSecond e ev d = lampSecond .dc (scheduledArrives e p (drillSecond e d)) ∧
        (d.ah.hold = true → d.dc.drill = none →
          (dcSecond e ev d).dc.slot = none ∧ (dcSecond e ev d).dc.lastResult = .notStarted .alarm ∧
            condHas (dcSecond e ev d).conds .drillEnded = true)) ∧
      (t.day * 86400 + t.sec < p.moment.day * 86400 + p.moment.sec →
        dcSecond e ev d = lampSecond .dc (drillSecond e d))) ∧
    (∀ p : DrillPlan,
      let out (reason : NotStarted) : Dev :=
        { d with
          dc := { d.dc with slot := none, lastResult := .notStarted reason }, conds := d.conds ||| 0x800 }
      (d.ah.hold = true → scheduledArrives e p d = out .alarm) ∧
      (d.ah.hold = false → d.dc.drill.isSome = true → scheduledArrives e p d = out .active) ∧
      (d.ah.hold = false → d.dc.drill = none →
        (d.dc.scripts[p.script] = none ∨
            (∃ x, d.dc.scripts[p.script] = some x ∧ patternOf d x.pattern = []) →
          scheduledArrives e p d = out .notFound) ∧
        (∀ x, d.dc.scripts[p.script] = some x → patternOf d x.pattern ≠ [] →
          (scheduledArrives e p d).dc.slot = none ∧
            (scheduledArrives e p d).dc.lastResult = .started d.dc.nextRecord ∧
            ∃ y, y = (startDrill e p.script x p.buildings { d with dc := { d.dc with slot := none } }).2 ∧
              scheduledArrives e p d = { y with dc := { y.dc with lastResult := .started d.dc.nextRecord } }))) ∧
    (∀ dr, d.dc.drill = some dr → ∀ counted, counted = { d with dc := { d.dc with
        drill := some { dr with count := dr.count + 1 } } } →
      (dr.phase = .pre →
        (dr.clip.isSome = true → drillSecond e d = d) ∧
        (dr.clip = none → dr.script.preDelay ≤ dr.count + 1 → drillSecond e d = enterEvac e counted) ∧
        (dr.clip = none → dr.count + 1 < dr.script.preDelay → drillSecond e d = counted)) ∧
      (dr.phase = .evac → dr.count + 1 < dr.script.evacuation →
        ((∀ b : Building, dr.at_[b] ≠ .claiming) → drillSecond e d = counted) ∧
        ∃ x, (drillSecond e d).dc.drill = some x ∧ x = { dr with count := dr.count + 1, at_ := x.at_ } ∧
          ∀ b : Building, x.at_[b] = if dr.at_[b] = .claiming then
            drillAnswer (answerFor d .drill .drill false (allZones dr.buildings) b).2 else dr.at_[b]) ∧
      (dr.phase = .muster →
        (dr.script.clearLimit ≤ dr.count + 1 → drillSecond e d = enterAllClear e .timeout counted) ∧
        (dr.count + 1 < dr.script.clearLimit → drillSecond e d = counted)) ∧
      (dr.phase = .allClear → drillSecond e d = d)) ∧
    (∀ (ev : SecondEvent) (id : Nat) (r : AnnounceReq), reqOf d id = some r → r.playing = false → r.eligible = false →
      let due : Prop := ∃ t now, r.notBefore = some t ∧ ev.new = some now ∧
        t.day * 86400 + t.sec ≤ now.day * 86400 + now.sec
      (due → 2 ≤ r.count →
        reqOf (countRequest e ev id d) id = some { r with eligible := true, count := r.count - 1 }) ∧
      (due → r.count ≤ 1 → reqOf (countRequest e ev id d) id = none ∧ ∃ f,
        (countRequest e ev id d).am.finished.getLast? = some f ∧ f.id = id ∧ f.outcome = .expired) ∧
      (¬due → r.count ≠ 0 → reqOf (countRequest e ev id d) id = some r)) ∧
    (∀ (ev : SecondEvent) (born : Nat) (r : AnnounceReq), r ∈ d.am.queue → (d.am.queue.map fun q => q.id).Nodup →
      r.playing = true ∨ born ≤ r.order →
      reqOf (amSecond e ev born d) r.id = some r ∧ (amSecond e ev born d).agenda.getLast? = some .scan) ∧
    (∀ (ev : SecondEvent) (i : LineNo) (l counted : Line), d.lines[i] = some l →
      counted = { l with
        pace := min 10 (l.pace + 1)
        faultWait := if l.fault.isSome then min 30 (l.faultWait + 1) else l.faultWait } →
      let ready : Prop :=
        l.fault.isSome = true ∧ 29 ≤ l.faultWait ∧ l.enabled = true ∧ l.view = .online ∧ l.probe = none
      let plain : Prop := ev.minute = false ∧ ev.step = none
      (plain → ¬ready → l.probe = none →
        (l.state ≠ .advance ∨ l.inFlight.isSome = true ∨ counted.pace < l.catchUp ∨ l.pol = none →
          lineSecond e i ev d = setLine i (some counted) d) ∧
        (l.state = .advance → l.inFlight = none → l.catchUp ≤ counted.pace → ∀ p n d', l.pol = some p →
          enqueue l.building l.addr (.impulse (if p = .pos then .neg else .pos) l.width) (.lc i)
            (setLine i (some counted) d) = (.accepted n, d') →
          lineSecond e i ev d =
            setLine i (some { counted with inFlight := some (if p = .pos then .neg else .pos), pace := 0 }) d')) ∧
      (ready → l.state ≠ .advance → ∀ x, x = { counted with
          probe := some (.fault, .pending), state := if l.pos = none then .unset else .probe } →
        (l.inFlight.isSome = true → lineSecond e i ev d = setLine i (some x) d) ∧
        (l.inFlight = none → ∀ n d', enqueue l.building l.addr .probe (.lc i) (setLine i (some x) d) =
            (.accepted n, d') →
          lineSecond e i ev d = setLine i (some { x with probe := some (.fault, .sent) }) d'))) ∧
    (∀ (ev : SecondEvent) (i : LineNo) (l counted : Line) (d2 : Dev), d.lines[i] = some l →
      counted = { l with
        pace := min 10 (l.pace + 1)
        faultWait := if l.fault.isSome then min 30 (l.faultWait + 1) else l.faultWait } →
      d2 = (if ev.minute = true ∨ ev.step.isSome = true then
          tryIssue e i (setLine i (some { counted with state := lineStateOf e.now counted }) d)
        else tryIssue e i (setLine i (some counted) d)) →
      ∀ x, d2.lines[i] = some x →
        let ready : Prop :=
          x.fault.isSome = true ∧ x.faultWait = 30 ∧ x.enabled = true ∧ x.view = .online ∧ x.probe = none
        (ready → lineSecond e i ev d =
          tryProbe e i (evaluate e i (setLine i (some { x with probe := some (.fault, .pending) }) d2))) ∧
        (¬ready → lineSecond e i ev d = tryProbe e i d2)) ∧
    (∀ d', countPage e .b (countPage e .a d) = d' → puSecond e d = { d' with agenda := d'.agenda ++
      (if d'.pu.a.state = .waiting then
        if d'.pu.b.state = .waiting then
          if d'.pu.b.waitOrder < d'.pu.a.waitOrder then [.pageReclaim .b, .pageReclaim .a]
          else [.pageReclaim .a, .pageReclaim .b]
        else [.pageReclaim .a]
      else if d'.pu.b.state = .waiting then [.pageReclaim .b] else []) }) ∧
    (∀ (b : Building) (row : Row) (sw : Station), d.ta.rows[b] = row →
      rowOfKind d.bus[b] .zoneSwitch = some sw → rowAt d.bus[b] sw.addr = some sw → sw.state ≠ .offline →
      let placing : Prop := ∃ st, row.stage = some st ∧ st.phase = .placing
      let retried (op : BusOp) (x : Nat → Row) : Prop := ∃ n, (taSecond d).ta.rows[b] = x n ∧
        (taSecond d).bus[b] = { d.bus[b] with
          queue := (d.bus[b]).queue ++ [{ addr := sw.addr, op := op, owner := .ta, serial := n }] }
      let stays : Prop := (taSecond d).ta.rows[b] = row ∧ (taSecond d).bus[b] = d.bus[b]
      (¬placing → row.settling ≠ .muting none → stays) ∧
      (∀ st, row.stage = some st → st.phase = .placing → row.settling ≠ .muting none → (d.bus[b]).alarm = false →
        ((d.bus[b]).queue.length < 6 → retried (.stage st.map) fun n =>
          { row with stage := some { st with phase := .queued n } }) ∧
        (6 ≤ (d.bus[b]).queue.length → stays)) ∧
      (¬placing → row.settling = .muting none →
        ((d.bus[b]).queue.length < (if (d.bus[b]).alarm then 2 else 6) →
          retried .mute fun n => { row with settling := .muting (some n) }) ∧
        ((if (d.bus[b]).alarm then 2 else 6) ≤ (d.bus[b]).queue.length → stays))) ∧
    (∀ (who : Keeper) (b : Building) (k : LampKeep), lampOf who d b = k →
      (k.full = false → lampOf who (lampSecond who d) b = k ∧ (lampSecond who d).bus[b] = d.bus[b]) ∧
      (∀ w r, k.full = true → k.wanted = some w → k.outstanding = none →
        rowOfKind d.bus[b] .marshalPanel = some r → rowAt d.bus[b] r.addr = some r → r.state ≠ .offline →
        (d.bus[b]).queue.length < (if (d.bus[b]).alarm then 2 else 6) →
        ∃ n, lampOf who (lampSecond who d) b = { wanted := some w, outstanding := some n, full := false } ∧
          (lampSecond who d).bus[b] = { d.bus[b] with queue := (d.bus[b]).queue ++
            [{ addr := r.addr, op := .lamp w, owner := keeperOwner who, serial := n }] })) ∧
    (∀ dr, d.dc.drill = some dr →
      (dr.phase = .evac → dr.script.evacuation ≤ dr.count + 1 → drillSecond e d =
        endEvac e { d with dc := { d.dc with drill := some { dr with count := dr.count + 1 } } }) ∧
      ∀ freed ended,
        freed = releaseSet .drill (bsWhere fun b => decide (dr.at_[b] = .granted ∨ dr.at_[b] = .sounding)) d →
        ended = { dr with
          gen := none, genStarted := false
          at_ := Vector.ofFn fun b : Building =>
            if dr.at_[b] ∈ [.granted, .sounding, .claiming] then .released else dr.at_[b] } →
        let after (x : Drill) : Dev :=
          let y : Dev := match dr.gen with
            | some g => freeGen g freed
            | none => freed
          { y with dc := { y.dc with drill := some x } }
        let clear : Prop := ∃ r, recordOf d dr.record = some r ∧
          ∀ b : Building, bsHas dr.buildings b = true → (r.at_[b]).clear.isSome = true
        (clear → endEvac e d = enterAllClear e .complete (after ended)) ∧
        (¬clear → dr.count < dr.script.clearLimit → endEvac e d = after { ended with phase := .muster }) ∧
        (¬clear → dr.script.clearLimit ≤ dr.count →
          endEvac e d = enterAllClear e .timeout (after { ended with phase := .muster })))

/-! ## Laws of every step -/

/-- The laws that the steps keep hold after reset. -/
def Obligations.LawsHoldAtReset : Prop :=
  timeLawful State.reset.tb = true ∧ linkLawful State.reset.link = true ∧ linesLawful State.reset.dev = true ∧
    queuesLawful State.reset.dev = true ∧ capsLawful State.reset.dev = true ∧
    (State.reset.tb.restart.isSome || trunksForced State.reset.dev) = true ∧ holdClears State.reset.dev = true

/-- A field station changes only when its bus acts on it, a marshal presses, a measurement ends, the power fails or
the power returns: every other command leaves all of them as they are (R21 to R25, R40). When the power fails, in a
RESTART too, the transaction on the wires acts if it had been taken, a poll and an idle bus leave the field as it is,
and nothing else acts (R13, R40; whether it had been taken is an operand, log entry 13). RESTORE and a COLD
start power every station up: a driver has made no measurement, a panel's lamp is OFF and its latch clear (R24,
R25); that a zone switch keeps its maps and a relay its polarity then is the model's choice (log entries 26 and
34). -/
def Obligations.FieldStationsChangeOnlyByTheirBus : Prop :=
  (∀ (c : Instr) (s t : State), exec c s = .next t →
    (∀ b v, c ≠ .successfulAttempt b v) → (∀ b v, c ≠ .busyLimit b v) → (∀ b, c ≠ .applyMark b) →
    (∀ x, c ≠ .entryToBackup x) → (∀ b, c ≠ .buildingClearPress b) → (∀ b a r, c ≠ .probeMeasurementEnd b a r) →
    c ≠ .restore → c ≠ .coldStart →
    ∀ b : Building, (t.dev.bus[b]).field = (s.dev.bus[b]).field) ∧
  (∀ (s t : State) (b : Building),
    let up (f : FieldStation) : FieldStation := { f with probe := .none, press := none, lamp := .off }
    (s.tb.supply = .backup → s.tb.retained = true → s.tb.vmain = true → exec .restore s = .next t →
      (t.dev.bus[b]).field = (s.dev.bus[b]).field.map up) ∧
    (s.tb.retained = false → s.tb.vmain = true → exec .coldStart s = .next t →
      (t.dev.bus[b]).field = (s.dev.bus[b]).field.map up) ∧
    (s.tb.supply = .main ∨ s.tb.retained = false ∨ s.tb.vmain = false → exec .restore s = .next t → t = s) ∧
    (s.tb.retained = true ∨ s.tb.vmain = false → exec .coldStart s = .next t → t = s)) ∧
  (∀ (s t : State) (taken : BuildingSet) (b : Building), exec (.entryToBackup taken) s = .next t →
    let bus : Bus := s.dev.bus[b]
    (isPowered s.tb = false → t = s) ∧
    (isPowered s.tb = true →
      (bsHas taken b = false → (t.dev.bus[b]).field = bus.field) ∧
      (bsHas taken b = true →
        (∀ x c, bus.wire = .attempt x → x.what = .command c → ∀ addr : Nat,
          fieldAt t.dev.bus[b] addr =
            if addr = x.addr then (stationTake c.op false (fieldAt bus addr)).1 else fieldAt bus addr) ∧
        (∀ x probe, bus.wire = .attempt x → x.what = .poll probe → (t.dev.bus[b]).field = bus.field) ∧
        (bus.wire = .applyMark → (t.dev.bus[b]).field = bus.field.map fun f =>
          if bus.rows.any (fun r => r.addr == f.addr && r.kind != .zoneSwitch) then f
          else { f with active := f.staged }) ∧
        (bus.wire = .idle → (t.dev.bus[b]).field = bus.field))))

end Statements
end

