-- ==== Sys2Proof/Laws/State.lean ====
section
/-! SUPPORT. The small lemmas of the state: for each update of the model and each field, what the field reads
afterwards, so that no proof unfolds a record update. -/

namespace Sys2Proof.Machine

/-! ## Tables -/

@[simp] theorem put_get {α : Type} {n : Nat} (v : Vector α n) (i : Fin n) (x : α) : (put v i x)[i] = x := by
  simp [put]

theorem put_get_of_ne {α : Type} {n : Nat} (v : Vector α n) (i j : Fin n) (x : α) (h : i ≠ j) :
    (put v i x)[j] = v[j] := by
  simp only [put, Fin.getElem_fin]
  exact Vector.getElem_set_ne _ _ (fun e => h (Fin.ext e))

/-- Reading any place of a table with one place rewritten. -/
theorem put_get_any {α : Type} {n : Nat} (v : Vector α n) (i j : Fin n) (x : α) :
    (put v i x)[j] = if i = j then x else v[j] := by
  split
  · subst_vars; exact put_get v _ x
  · exact put_get_of_ne v i j x (by assumption)

@[simp] theorem tabMap_get {α β : Type} {n : Nat} (f : α → β) (v : Vector α n) (i : Fin n) :
    (tabMap f v)[i] = f v[i] := by
  simp [tabMap]

/-! ## The whole -/

@[simp] theorem setTb_tb (x : Timebase) (s : State) : (setTb x s).tb = x := rfl
@[simp] theorem setTb_link (x : Timebase) (s : State) : (setTb x s).link = s.link := rfl
@[simp] theorem setTb_dev (x : Timebase) (s : State) : (setTb x s).dev = s.dev := rfl
@[simp] theorem setTb_pending (x : Timebase) (s : State) : (setTb x s).pending = s.pending := rfl
@[simp] theorem setLink_tb (x : Link) (s : State) : (setLink x s).tb = s.tb := rfl
@[simp] theorem setLink_link (x : Link) (s : State) : (setLink x s).link = x := rfl
@[simp] theorem setLink_dev (x : Link) (s : State) : (setLink x s).dev = s.dev := rfl
@[simp] theorem setLink_pending (x : Link) (s : State) : (setLink x s).pending = s.pending := rfl
@[simp] theorem setDev_tb (x : Dev) (s : State) : (setDev x s).tb = s.tb := rfl
@[simp] theorem setDev_link (x : Dev) (s : State) : (setDev x s).link = s.link := rfl
@[simp] theorem setDev_dev (x : Dev) (s : State) : (setDev x s).dev = x := rfl
@[simp] theorem setDev_pending (x : Dev) (s : State) : (setDev x s).pending = s.pending := rfl
@[simp] theorem mapDev_tb (g : Dev → Dev) (s : State) : (mapDev g s).tb = s.tb := rfl
@[simp] theorem mapDev_link (g : Dev → Dev) (s : State) : (mapDev g s).link = s.link := rfl
@[simp] theorem mapDev_dev (g : Dev → Dev) (s : State) : (mapDev g s).dev = g s.dev := rfl
@[simp] theorem mapDev_pending (g : Dev → Dev) (s : State) : (mapDev g s).pending = s.pending := rfl
@[simp] theorem inBlocks_tb (g : Env → Dev → Dev) (s : State) : (inBlocks g s).tb = s.tb := rfl
@[simp] theorem inBlocks_link (g : Env → Dev → Dev) (s : State) : (inBlocks g s).link = s.link := rfl
@[simp] theorem inBlocks_pending (g : Env → Dev → Dev) (s : State) : (inBlocks g s).pending = s.pending := rfl
@[simp] theorem inBlocks_dev (g : Env → Dev → Dev) (s : State) :
    (inBlocks g s).dev = settle (envOf s) (g (envOf s) s.dev) := rfl

/-! ## The blocks -/

@[simp] theorem setBus_bus (b : Building) (x : Bus) (d : Dev) : (setBus b x d).bus = put d.bus b x := rfl
@[simp] theorem setBus_lines (b : Building) (x : Bus) (d : Dev) : (setBus b x d).lines = d.lines := rfl
@[simp] theorem setBus_tt (b : Building) (x : Bus) (d : Dev) : (setBus b x d).tt = d.tt := rfl
@[simp] theorem setBus_ta (b : Building) (x : Bus) (d : Dev) : (setBus b x d).ta = d.ta := rfl
@[simp] theorem setBus_rs (b : Building) (x : Bus) (d : Dev) : (setBus b x d).rs = d.rs := rfl
@[simp] theorem setBus_am (b : Building) (x : Bus) (d : Dev) : (setBus b x d).am = d.am := rfl
@[simp] theorem setBus_pu (b : Building) (x : Bus) (d : Dev) : (setBus b x d).pu = d.pu := rfl
@[simp] theorem setBus_dc (b : Building) (x : Bus) (d : Dev) : (setBus b x d).dc = d.dc := rfl
@[simp] theorem setBus_ah (b : Building) (x : Bus) (d : Dev) : (setBus b x d).ah = d.ah := rfl
@[simp] theorem setBus_conds (b : Building) (x : Bus) (d : Dev) : (setBus b x d).conds = d.conds := rfl
@[simp] theorem setBus_serial (b : Building) (x : Bus) (d : Dev) : (setBus b x d).serial = d.serial := rfl
@[simp] theorem setBus_drawn (b : Building) (x : Bus) (d : Dev) : (setBus b x d).drawn = d.drawn := rfl
@[simp] theorem setBus_agenda (b : Building) (x : Bus) (d : Dev) : (setBus b x d).agenda = d.agenda := rfl

@[simp] theorem setLine_bus (i : LineNo) (x : Option Line) (d : Dev) : (setLine i x d).bus = d.bus := rfl
@[simp] theorem setLine_lines (i : LineNo) (x : Option Line) (d : Dev) :
    (setLine i x d).lines = put d.lines i x := rfl
@[simp] theorem setLine_tt (i : LineNo) (x : Option Line) (d : Dev) : (setLine i x d).tt = d.tt := rfl
@[simp] theorem setLine_ta (i : LineNo) (x : Option Line) (d : Dev) : (setLine i x d).ta = d.ta := rfl
@[simp] theorem setLine_rs (i : LineNo) (x : Option Line) (d : Dev) : (setLine i x d).rs = d.rs := rfl
@[simp] theorem setLine_am (i : LineNo) (x : Option Line) (d : Dev) : (setLine i x d).am = d.am := rfl
@[simp] theorem setLine_pu (i : LineNo) (x : Option Line) (d : Dev) : (setLine i x d).pu = d.pu := rfl
@[simp] theorem setLine_dc (i : LineNo) (x : Option Line) (d : Dev) : (setLine i x d).dc = d.dc := rfl
@[simp] theorem setLine_ah (i : LineNo) (x : Option Line) (d : Dev) : (setLine i x d).ah = d.ah := rfl
@[simp] theorem setLine_conds (i : LineNo) (x : Option Line) (d : Dev) : (setLine i x d).conds = d.conds := rfl
@[simp] theorem setLine_serial (i : LineNo) (x : Option Line) (d : Dev) : (setLine i x d).serial = d.serial := rfl
@[simp] theorem setLine_drawn (i : LineNo) (x : Option Line) (d : Dev) : (setLine i x d).drawn = d.drawn := rfl
@[simp] theorem setLine_agenda (i : LineNo) (x : Option Line) (d : Dev) : (setLine i x d).agenda = d.agenda := rfl

@[simp] theorem setRow_bus (b : Building) (x : Row) (d : Dev) : (setRow b x d).bus = d.bus := rfl
@[simp] theorem setRow_lines (b : Building) (x : Row) (d : Dev) : (setRow b x d).lines = d.lines := rfl
@[simp] theorem setRow_tt (b : Building) (x : Row) (d : Dev) : (setRow b x d).tt = d.tt := rfl
@[simp] theorem setRow_ta_zones (b : Building) (x : Row) (d : Dev) : (setRow b x d).ta.zones = d.ta.zones := rfl
@[simp] theorem setRow_ta_rows (b : Building) (x : Row) (d : Dev) : (setRow b x d).ta.rows = put d.ta.rows b x := rfl
@[simp] theorem setRow_ta_barriers (b : Building) (x : Row) (d : Dev) :
    (setRow b x d).ta.barriers = d.ta.barriers := rfl
@[simp] theorem setRow_rs (b : Building) (x : Row) (d : Dev) : (setRow b x d).rs = d.rs := rfl
@[simp] theorem setRow_am (b : Building) (x : Row) (d : Dev) : (setRow b x d).am = d.am := rfl
@[simp] theorem setRow_pu (b : Building) (x : Row) (d : Dev) : (setRow b x d).pu = d.pu := rfl
@[simp] theorem setRow_dc (b : Building) (x : Row) (d : Dev) : (setRow b x d).dc = d.dc := rfl
@[simp] theorem setRow_ah (b : Building) (x : Row) (d : Dev) : (setRow b x d).ah = d.ah := rfl
@[simp] theorem setRow_conds (b : Building) (x : Row) (d : Dev) : (setRow b x d).conds = d.conds := rfl
@[simp] theorem setRow_serial (b : Building) (x : Row) (d : Dev) : (setRow b x d).serial = d.serial := rfl
@[simp] theorem setRow_drawn (b : Building) (x : Row) (d : Dev) : (setRow b x d).drawn = d.drawn := rfl
@[simp] theorem setRow_agenda (b : Building) (x : Row) (d : Dev) : (setRow b x d).agenda = d.agenda := rfl

@[simp] theorem setBarriers_bus (x : List Barrier) (d : Dev) : (setBarriers x d).bus = d.bus := rfl
@[simp] theorem setBarriers_lines (x : List Barrier) (d : Dev) : (setBarriers x d).lines = d.lines := rfl
@[simp] theorem setBarriers_tt (x : List Barrier) (d : Dev) : (setBarriers x d).tt = d.tt := rfl
@[simp] theorem setBarriers_ta_zones (x : List Barrier) (d : Dev) : (setBarriers x d).ta.zones = d.ta.zones := rfl
@[simp] theorem setBarriers_ta_rows (x : List Barrier) (d : Dev) : (setBarriers x d).ta.rows = d.ta.rows := rfl
@[simp] theorem setBarriers_ta_barriers (x : List Barrier) (d : Dev) : (setBarriers x d).ta.barriers = x := rfl
@[simp] theorem setBarriers_rs (x : List Barrier) (d : Dev) : (setBarriers x d).rs = d.rs := rfl
@[simp] theorem setBarriers_am (x : List Barrier) (d : Dev) : (setBarriers x d).am = d.am := rfl
@[simp] theorem setBarriers_pu (x : List Barrier) (d : Dev) : (setBarriers x d).pu = d.pu := rfl
@[simp] theorem setBarriers_dc (x : List Barrier) (d : Dev) : (setBarriers x d).dc = d.dc := rfl
@[simp] theorem setBarriers_ah (x : List Barrier) (d : Dev) : (setBarriers x d).ah = d.ah := rfl
@[simp] theorem setBarriers_conds (x : List Barrier) (d : Dev) : (setBarriers x d).conds = d.conds := rfl
@[simp] theorem setBarriers_serial (x : List Barrier) (d : Dev) : (setBarriers x d).serial = d.serial := rfl
@[simp] theorem setBarriers_drawn (x : List Barrier) (d : Dev) : (setBarriers x d).drawn = d.drawn := rfl
@[simp] theorem setBarriers_agenda (x : List Barrier) (d : Dev) : (setBarriers x d).agenda = d.agenda := rfl

@[simp] theorem setGen_bus (g : GenNo) (x : Option GenUse) (d : Dev) : (setGen g x d).bus = d.bus := rfl
@[simp] theorem setGen_lines (g : GenNo) (x : Option GenUse) (d : Dev) : (setGen g x d).lines = d.lines := rfl
@[simp] theorem setGen_tt (g : GenNo) (x : Option GenUse) (d : Dev) : (setGen g x d).tt = d.tt := rfl
@[simp] theorem setGen_ta (g : GenNo) (x : Option GenUse) (d : Dev) : (setGen g x d).ta = d.ta := rfl
@[simp] theorem setGen_rs_patterns (g : GenNo) (x : Option GenUse) (d : Dev) :
    (setGen g x d).rs.patterns = d.rs.patterns := rfl
@[simp] theorem setGen_rs_gens (g : GenNo) (x : Option GenUse) (d : Dev) :
    (setGen g x d).rs.gens = put d.rs.gens g x := rfl
@[simp] theorem setGen_rs_runs (g : GenNo) (x : Option GenUse) (d : Dev) : (setGen g x d).rs.runs = d.rs.runs := rfl
@[simp] theorem setGen_rs_waitList (g : GenNo) (x : Option GenUse) (d : Dev) :
    (setGen g x d).rs.waitList = d.rs.waitList := rfl
@[simp] theorem setGen_rs_startOrder (g : GenNo) (x : Option GenUse) (d : Dev) :
    (setGen g x d).rs.startOrder = d.rs.startOrder := rfl
@[simp] theorem setGen_rs_nextOrder (g : GenNo) (x : Option GenUse) (d : Dev) :
    (setGen g x d).rs.nextOrder = d.rs.nextOrder := rfl
@[simp] theorem setGen_rs_nextAssign (g : GenNo) (x : Option GenUse) (d : Dev) :
    (setGen g x d).rs.nextAssign = d.rs.nextAssign := rfl
@[simp] theorem setGen_rs_heldOut (g : GenNo) (x : Option GenUse) (d : Dev) :
    (setGen g x d).rs.heldOut = d.rs.heldOut := rfl
@[simp] theorem setGen_am (g : GenNo) (x : Option GenUse) (d : Dev) : (setGen g x d).am = d.am := rfl
@[simp] theorem setGen_pu (g : GenNo) (x : Option GenUse) (d : Dev) : (setGen g x d).pu = d.pu := rfl
@[simp] theorem setGen_dc (g : GenNo) (x : Option GenUse) (d : Dev) : (setGen g x d).dc = d.dc := rfl
@[simp] theorem setGen_ah (g : GenNo) (x : Option GenUse) (d : Dev) : (setGen g x d).ah = d.ah := rfl
@[simp] theorem setGen_conds (g : GenNo) (x : Option GenUse) (d : Dev) : (setGen g x d).conds = d.conds := rfl
@[simp] theorem setGen_serial (g : GenNo) (x : Option GenUse) (d : Dev) : (setGen g x d).serial = d.serial := rfl
@[simp] theorem setGen_drawn (g : GenNo) (x : Option GenUse) (d : Dev) : (setGen g x d).drawn = d.drawn := rfl
@[simp] theorem setGen_agenda (g : GenNo) (x : Option GenUse) (d : Dev) : (setGen g x d).agenda = d.agenda := rfl

@[simp] theorem setRun_bus (r : RunIx) (x : Option Run) (d : Dev) : (setRun r x d).bus = d.bus := rfl
@[simp] theorem setRun_lines (r : RunIx) (x : Option Run) (d : Dev) : (setRun r x d).lines = d.lines := rfl
@[simp] theorem setRun_tt (r : RunIx) (x : Option Run) (d : Dev) : (setRun r x d).tt = d.tt := rfl
@[simp] theorem setRun_ta (r : RunIx) (x : Option Run) (d : Dev) : (setRun r x d).ta = d.ta := rfl
@[simp] theorem setRun_rs_patterns (r : RunIx) (x : Option Run) (d : Dev) :
    (setRun r x d).rs.patterns = d.rs.patterns := rfl
@[simp] theorem setRun_rs_gens (r : RunIx) (x : Option Run) (d : Dev) : (setRun r x d).rs.gens = d.rs.gens := rfl
@[simp] theorem setRun_rs_runs (r : RunIx) (x : Option Run) (d : Dev) :
    (setRun r x d).rs.runs = put d.rs.runs r x := rfl
@[simp] theorem setRun_rs_waitList (r : RunIx) (x : Option Run) (d : Dev) :
    (setRun r x d).rs.waitList = d.rs.waitList := rfl
@[simp] theorem setRun_rs_startOrder (r : RunIx) (x : Option Run) (d : Dev) :
    (setRun r x d).rs.startOrder = d.rs.startOrder := rfl
@[simp] theorem setRun_rs_nextOrder (r : RunIx) (x : Option Run) (d : Dev) :
    (setRun r x d).rs.nextOrder = d.rs.nextOrder := rfl
@[simp] theorem setRun_rs_nextAssign (r : RunIx) (x : Option Run) (d : Dev) :
    (setRun r x d).rs.nextAssign = d.rs.nextAssign := rfl
@[simp] theorem setRun_rs_heldOut (r : RunIx) (x : Option Run) (d : Dev) :
    (setRun r x d).rs.heldOut = d.rs.heldOut := rfl
@[simp] theorem setRun_am (r : RunIx) (x : Option Run) (d : Dev) : (setRun r x d).am = d.am := rfl
@[simp] theorem setRun_pu (r : RunIx) (x : Option Run) (d : Dev) : (setRun r x d).pu = d.pu := rfl
@[simp] theorem setRun_dc (r : RunIx) (x : Option Run) (d : Dev) : (setRun r x d).dc = d.dc := rfl
@[simp] theorem setRun_ah (r : RunIx) (x : Option Run) (d : Dev) : (setRun r x d).ah = d.ah := rfl
@[simp] theorem setRun_conds (r : RunIx) (x : Option Run) (d : Dev) : (setRun r x d).conds = d.conds := rfl
@[simp] theorem setRun_serial (r : RunIx) (x : Option Run) (d : Dev) : (setRun r x d).serial = d.serial := rfl
@[simp] theorem setRun_drawn (r : RunIx) (x : Option Run) (d : Dev) : (setRun r x d).drawn = d.drawn := rfl
@[simp] theorem setRun_agenda (r : RunIx) (x : Option Run) (d : Dev) : (setRun r x d).agenda = d.agenda := rfl

@[simp] theorem setDrill_bus (x : Option Drill) (d : Dev) : (setDrill x d).bus = d.bus := rfl
@[simp] theorem setDrill_lines (x : Option Drill) (d : Dev) : (setDrill x d).lines = d.lines := rfl
@[simp] theorem setDrill_tt (x : Option Drill) (d : Dev) : (setDrill x d).tt = d.tt := rfl
@[simp] theorem setDrill_ta (x : Option Drill) (d : Dev) : (setDrill x d).ta = d.ta := rfl
@[simp] theorem setDrill_rs (x : Option Drill) (d : Dev) : (setDrill x d).rs = d.rs := rfl
@[simp] theorem setDrill_am (x : Option Drill) (d : Dev) : (setDrill x d).am = d.am := rfl
@[simp] theorem setDrill_pu (x : Option Drill) (d : Dev) : (setDrill x d).pu = d.pu := rfl
@[simp] theorem setDrill_dc_scripts (x : Option Drill) (d : Dev) : (setDrill x d).dc.scripts = d.dc.scripts := rfl
@[simp] theorem setDrill_dc_slot (x : Option Drill) (d : Dev) : (setDrill x d).dc.slot = d.dc.slot := rfl
@[simp] theorem setDrill_dc_lastResult (x : Option Drill) (d : Dev) :
    (setDrill x d).dc.lastResult = d.dc.lastResult := rfl
@[simp] theorem setDrill_dc_drill (x : Option Drill) (d : Dev) : (setDrill x d).dc.drill = x := rfl
@[simp] theorem setDrill_dc_lamps (x : Option Drill) (d : Dev) : (setDrill x d).dc.lamps = d.dc.lamps := rfl
@[simp] theorem setDrill_dc_records (x : Option Drill) (d : Dev) : (setDrill x d).dc.records = d.dc.records := rfl
@[simp] theorem setDrill_dc_nextRecord (x : Option Drill) (d : Dev) :
    (setDrill x d).dc.nextRecord = d.dc.nextRecord := rfl
@[simp] theorem setDrill_ah (x : Option Drill) (d : Dev) : (setDrill x d).ah = d.ah := rfl
@[simp] theorem setDrill_conds (x : Option Drill) (d : Dev) : (setDrill x d).conds = d.conds := rfl
@[simp] theorem setDrill_serial (x : Option Drill) (d : Dev) : (setDrill x d).serial = d.serial := rfl
@[simp] theorem setDrill_drawn (x : Option Drill) (d : Dev) : (setDrill x d).drawn = d.drawn := rfl
@[simp] theorem setDrill_agenda (x : Option Drill) (d : Dev) : (setDrill x d).agenda = d.agenda := rfl

@[simp] theorem setDcLamp_bus (b : Building) (x : LampKeep) (d : Dev) : (setDcLamp b x d).bus = d.bus := rfl
@[simp] theorem setDcLamp_lines (b : Building) (x : LampKeep) (d : Dev) : (setDcLamp b x d).lines = d.lines := rfl
@[simp] theorem setDcLamp_tt (b : Building) (x : LampKeep) (d : Dev) : (setDcLamp b x d).tt = d.tt := rfl
@[simp] theorem setDcLamp_ta (b : Building) (x : LampKeep) (d : Dev) : (setDcLamp b x d).ta = d.ta := rfl
@[simp] theorem setDcLamp_rs (b : Building) (x : LampKeep) (d : Dev) : (setDcLamp b x d).rs = d.rs := rfl
@[simp] theorem setDcLamp_am (b : Building) (x : LampKeep) (d : Dev) : (setDcLamp b x d).am = d.am := rfl
@[simp] theorem setDcLamp_pu (b : Building) (x : LampKeep) (d : Dev) : (setDcLamp b x d).pu = d.pu := rfl
@[simp] theorem setDcLamp_dc_scripts (b : Building) (x : LampKeep) (d : Dev) :
    (setDcLamp b x d).dc.scripts = d.dc.scripts := rfl
@[simp] theorem setDcLamp_dc_slot (b : Building) (x : LampKeep) (d : Dev) :
    (setDcLamp b x d).dc.slot = d.dc.slot := rfl
@[simp] theorem setDcLamp_dc_lastResult (b : Building) (x : LampKeep) (d : Dev) :
    (setDcLamp b x d).dc.lastResult = d.dc.lastResult := rfl
@[simp] theorem setDcLamp_dc_drill (b : Building) (x : LampKeep) (d : Dev) :
    (setDcLamp b x d).dc.drill = d.dc.drill := rfl
@[simp] theorem setDcLamp_dc_lamps (b : Building) (x : LampKeep) (d : Dev) :
    (setDcLamp b x d).dc.lamps = put d.dc.lamps b x := rfl
@[simp] theorem setDcLamp_dc_records (b : Building) (x : LampKeep) (d : Dev) :
    (setDcLamp b x d).dc.records = d.dc.records := rfl
@[simp] theorem setDcLamp_dc_nextRecord (b : Building) (x : LampKeep) (d : Dev) :
    (setDcLamp b x d).dc.nextRecord = d.dc.nextRecord := rfl
@[simp] theorem setDcLamp_ah (b : Building) (x : LampKeep) (d : Dev) : (setDcLamp b x d).ah = d.ah := rfl
@[simp] theorem setDcLamp_conds (b : Building) (x : LampKeep) (d : Dev) : (setDcLamp b x d).conds = d.conds := rfl
@[simp] theorem setDcLamp_serial (b : Building) (x : LampKeep) (d : Dev) : (setDcLamp b x d).serial = d.serial := rfl
@[simp] theorem setDcLamp_drawn (b : Building) (x : LampKeep) (d : Dev) : (setDcLamp b x d).drawn = d.drawn := rfl
@[simp] theorem setDcLamp_agenda (b : Building) (x : LampKeep) (d : Dev) : (setDcLamp b x d).agenda = d.agenda := rfl

@[simp] theorem setAhLamp_bus (b : Building) (x : LampKeep) (d : Dev) : (setAhLamp b x d).bus = d.bus := rfl
@[simp] theorem setAhLamp_lines (b : Building) (x : LampKeep) (d : Dev) : (setAhLamp b x d).lines = d.lines := rfl
@[simp] theorem setAhLamp_tt (b : Building) (x : LampKeep) (d : Dev) : (setAhLamp b x d).tt = d.tt := rfl
@[simp] theorem setAhLamp_ta (b : Building) (x : LampKeep) (d : Dev) : (setAhLamp b x d).ta = d.ta := rfl
@[simp] theorem setAhLamp_rs (b : Building) (x : LampKeep) (d : Dev) : (setAhLamp b x d).rs = d.rs := rfl
@[simp] theorem setAhLamp_am (b : Building) (x : LampKeep) (d : Dev) : (setAhLamp b x d).am = d.am := rfl
@[simp] theorem setAhLamp_pu (b : Building) (x : LampKeep) (d : Dev) : (setAhLamp b x d).pu = d.pu := rfl
@[simp] theorem setAhLamp_dc (b : Building) (x : LampKeep) (d : Dev) : (setAhLamp b x d).dc = d.dc := rfl
@[simp] theorem setAhLamp_ah_active (b : Building) (x : LampKeep) (d : Dev) :
    (setAhLamp b x d).ah.active = d.ah.active := rfl
@[simp] theorem setAhLamp_ah_level (b : Building) (x : LampKeep) (d : Dev) :
    (setAhLamp b x d).ah.level = d.ah.level := rfl
@[simp] theorem setAhLamp_ah_timing (b : Building) (x : LampKeep) (d : Dev) :
    (setAhLamp b x d).ah.timing = d.ah.timing := rfl
@[simp] theorem setAhLamp_ah_hold (b : Building) (x : LampKeep) (d : Dev) :
    (setAhLamp b x d).ah.hold = d.ah.hold := rfl
@[simp] theorem setAhLamp_ah_record (b : Building) (x : LampKeep) (d : Dev) :
    (setAhLamp b x d).ah.record = d.ah.record := rfl
@[simp] theorem setAhLamp_ah_lamps (b : Building) (x : LampKeep) (d : Dev) :
    (setAhLamp b x d).ah.lamps = put d.ah.lamps b x := rfl
@[simp] theorem setAhLamp_conds (b : Building) (x : LampKeep) (d : Dev) : (setAhLamp b x d).conds = d.conds := rfl
@[simp] theorem setAhLamp_serial (b : Building) (x : LampKeep) (d : Dev) : (setAhLamp b x d).serial = d.serial := rfl
@[simp] theorem setAhLamp_drawn (b : Building) (x : LampKeep) (d : Dev) : (setAhLamp b x d).drawn = d.drawn := rfl
@[simp] theorem setAhLamp_agenda (b : Building) (x : LampKeep) (d : Dev) : (setAhLamp b x d).agenda = d.agenda := rfl

@[simp] theorem setResult_bus (x : ScheduledResult) (d : Dev) : (setResult x d).bus = d.bus := rfl
@[simp] theorem setResult_lines (x : ScheduledResult) (d : Dev) : (setResult x d).lines = d.lines := rfl
@[simp] theorem setResult_tt (x : ScheduledResult) (d : Dev) : (setResult x d).tt = d.tt := rfl
@[simp] theorem setResult_ta (x : ScheduledResult) (d : Dev) : (setResult x d).ta = d.ta := rfl
@[simp] theorem setResult_rs (x : ScheduledResult) (d : Dev) : (setResult x d).rs = d.rs := rfl
@[simp] theorem setResult_am (x : ScheduledResult) (d : Dev) : (setResult x d).am = d.am := rfl
@[simp] theorem setResult_pu (x : ScheduledResult) (d : Dev) : (setResult x d).pu = d.pu := rfl
@[simp] theorem setResult_dc_scripts (x : ScheduledResult) (d : Dev) :
    (setResult x d).dc.scripts = d.dc.scripts := rfl
@[simp] theorem setResult_dc_slot (x : ScheduledResult) (d : Dev) : (setResult x d).dc.slot = d.dc.slot := rfl
@[simp] theorem setResult_dc_lastResult (x : ScheduledResult) (d : Dev) : (setResult x d).dc.lastResult = x := rfl
@[simp] theorem setResult_dc_drill (x : ScheduledResult) (d : Dev) : (setResult x d).dc.drill = d.dc.drill := rfl
@[simp] theorem setResult_dc_lamps (x : ScheduledResult) (d : Dev) : (setResult x d).dc.lamps = d.dc.lamps := rfl
@[simp] theorem setResult_dc_records (x : ScheduledResult) (d : Dev) :
    (setResult x d).dc.records = d.dc.records := rfl
@[simp] theorem setResult_dc_nextRecord (x : ScheduledResult) (d : Dev) :
    (setResult x d).dc.nextRecord = d.dc.nextRecord := rfl
@[simp] theorem setResult_ah (x : ScheduledResult) (d : Dev) : (setResult x d).ah = d.ah := rfl
@[simp] theorem setResult_conds (x : ScheduledResult) (d : Dev) : (setResult x d).conds = d.conds := rfl
@[simp] theorem setResult_serial (x : ScheduledResult) (d : Dev) : (setResult x d).serial = d.serial := rfl
@[simp] theorem setResult_drawn (x : ScheduledResult) (d : Dev) : (setResult x d).drawn = d.drawn := rfl
@[simp] theorem setResult_agenda (x : ScheduledResult) (d : Dev) : (setResult x d).agenda = d.agenda := rfl

@[simp] theorem setDrillSlot_bus (x : Option DrillPlan) (d : Dev) : (setDrillSlot x d).bus = d.bus := rfl
@[simp] theorem setDrillSlot_lines (x : Option DrillPlan) (d : Dev) : (setDrillSlot x d).lines = d.lines := rfl
@[simp] theorem setDrillSlot_tt (x : Option DrillPlan) (d : Dev) : (setDrillSlot x d).tt = d.tt := rfl
@[simp] theorem setDrillSlot_ta (x : Option DrillPlan) (d : Dev) : (setDrillSlot x d).ta = d.ta := rfl
@[simp] theorem setDrillSlot_rs (x : Option DrillPlan) (d : Dev) : (setDrillSlot x d).rs = d.rs := rfl
@[simp] theorem setDrillSlot_am (x : Option DrillPlan) (d : Dev) : (setDrillSlot x d).am = d.am := rfl
@[simp] theorem setDrillSlot_pu (x : Option DrillPlan) (d : Dev) : (setDrillSlot x d).pu = d.pu := rfl
@[simp] theorem setDrillSlot_dc_scripts (x : Option DrillPlan) (d : Dev) :
    (setDrillSlot x d).dc.scripts = d.dc.scripts := rfl
@[simp] theorem setDrillSlot_dc_slot (x : Option DrillPlan) (d : Dev) : (setDrillSlot x d).dc.slot = x := rfl
@[simp] theorem setDrillSlot_dc_lastResult (x : Option DrillPlan) (d : Dev) :
    (setDrillSlot x d).dc.lastResult = d.dc.lastResult := rfl
@[simp] theorem setDrillSlot_dc_drill (x : Option DrillPlan) (d : Dev) :
    (setDrillSlot x d).dc.drill = d.dc.drill := rfl
@[simp] theorem setDrillSlot_dc_lamps (x : Option DrillPlan) (d : Dev) :
    (setDrillSlot x d).dc.lamps = d.dc.lamps := rfl
@[simp] theorem setDrillSlot_dc_records (x : Option DrillPlan) (d : Dev) :
    (setDrillSlot x d).dc.records = d.dc.records := rfl
@[simp] theorem setDrillSlot_dc_nextRecord (x : Option DrillPlan) (d : Dev) :
    (setDrillSlot x d).dc.nextRecord = d.dc.nextRecord := rfl
@[simp] theorem setDrillSlot_ah (x : Option DrillPlan) (d : Dev) : (setDrillSlot x d).ah = d.ah := rfl
@[simp] theorem setDrillSlot_conds (x : Option DrillPlan) (d : Dev) : (setDrillSlot x d).conds = d.conds := rfl
@[simp] theorem setDrillSlot_serial (x : Option DrillPlan) (d : Dev) : (setDrillSlot x d).serial = d.serial := rfl
@[simp] theorem setDrillSlot_drawn (x : Option DrillPlan) (d : Dev) : (setDrillSlot x d).drawn = d.drawn := rfl
@[simp] theorem setDrillSlot_agenda (x : Option DrillPlan) (d : Dev) : (setDrillSlot x d).agenda = d.agenda := rfl

@[simp] theorem setAm_bus (x : Announcer) (d : Dev) : (setAm x d).bus = d.bus := rfl
@[simp] theorem setAm_lines (x : Announcer) (d : Dev) : (setAm x d).lines = d.lines := rfl
@[simp] theorem setAm_tt (x : Announcer) (d : Dev) : (setAm x d).tt = d.tt := rfl
@[simp] theorem setAm_ta (x : Announcer) (d : Dev) : (setAm x d).ta = d.ta := rfl
@[simp] theorem setAm_rs (x : Announcer) (d : Dev) : (setAm x d).rs = d.rs := rfl
@[simp] theorem setAm_am (x : Announcer) (d : Dev) : (setAm x d).am = x := rfl
@[simp] theorem setAm_pu (x : Announcer) (d : Dev) : (setAm x d).pu = d.pu := rfl
@[simp] theorem setAm_dc (x : Announcer) (d : Dev) : (setAm x d).dc = d.dc := rfl
@[simp] theorem setAm_ah (x : Announcer) (d : Dev) : (setAm x d).ah = d.ah := rfl
@[simp] theorem setAm_conds (x : Announcer) (d : Dev) : (setAm x d).conds = d.conds := rfl
@[simp] theorem setAm_serial (x : Announcer) (d : Dev) : (setAm x d).serial = d.serial := rfl
@[simp] theorem setAm_drawn (x : Announcer) (d : Dev) : (setAm x d).drawn = d.drawn := rfl
@[simp] theorem setAm_agenda (x : Announcer) (d : Dev) : (setAm x d).agenda = d.agenda := rfl

@[simp] theorem setAh_bus (x : AlarmHold) (d : Dev) : (setAh x d).bus = d.bus := rfl
@[simp] theorem setAh_lines (x : AlarmHold) (d : Dev) : (setAh x d).lines = d.lines := rfl
@[simp] theorem setAh_tt (x : AlarmHold) (d : Dev) : (setAh x d).tt = d.tt := rfl
@[simp] theorem setAh_ta (x : AlarmHold) (d : Dev) : (setAh x d).ta = d.ta := rfl
@[simp] theorem setAh_rs (x : AlarmHold) (d : Dev) : (setAh x d).rs = d.rs := rfl
@[simp] theorem setAh_am (x : AlarmHold) (d : Dev) : (setAh x d).am = d.am := rfl
@[simp] theorem setAh_pu (x : AlarmHold) (d : Dev) : (setAh x d).pu = d.pu := rfl
@[simp] theorem setAh_dc (x : AlarmHold) (d : Dev) : (setAh x d).dc = d.dc := rfl
@[simp] theorem setAh_ah (x : AlarmHold) (d : Dev) : (setAh x d).ah = x := rfl
@[simp] theorem setAh_conds (x : AlarmHold) (d : Dev) : (setAh x d).conds = d.conds := rfl
@[simp] theorem setAh_serial (x : AlarmHold) (d : Dev) : (setAh x d).serial = d.serial := rfl
@[simp] theorem setAh_drawn (x : AlarmHold) (d : Dev) : (setAh x d).drawn = d.drawn := rfl
@[simp] theorem setAh_agenda (x : AlarmHold) (d : Dev) : (setAh x d).agenda = d.agenda := rfl

@[simp] theorem setTt_bus (x : Timetable) (d : Dev) : (setTt x d).bus = d.bus := rfl
@[simp] theorem setTt_lines (x : Timetable) (d : Dev) : (setTt x d).lines = d.lines := rfl
@[simp] theorem setTt_tt (x : Timetable) (d : Dev) : (setTt x d).tt = x := rfl
@[simp] theorem setTt_ta (x : Timetable) (d : Dev) : (setTt x d).ta = d.ta := rfl
@[simp] theorem setTt_rs (x : Timetable) (d : Dev) : (setTt x d).rs = d.rs := rfl
@[simp] theorem setTt_am (x : Timetable) (d : Dev) : (setTt x d).am = d.am := rfl
@[simp] theorem setTt_pu (x : Timetable) (d : Dev) : (setTt x d).pu = d.pu := rfl
@[simp] theorem setTt_dc (x : Timetable) (d : Dev) : (setTt x d).dc = d.dc := rfl
@[simp] theorem setTt_ah (x : Timetable) (d : Dev) : (setTt x d).ah = d.ah := rfl
@[simp] theorem setTt_conds (x : Timetable) (d : Dev) : (setTt x d).conds = d.conds := rfl
@[simp] theorem setTt_serial (x : Timetable) (d : Dev) : (setTt x d).serial = d.serial := rfl
@[simp] theorem setTt_drawn (x : Timetable) (d : Dev) : (setTt x d).drawn = d.drawn := rfl
@[simp] theorem setTt_agenda (x : Timetable) (d : Dev) : (setTt x d).agenda = d.agenda := rfl

@[simp] theorem push_bus (m : Msg) (d : Dev) : (push m d).bus = d.bus := rfl
@[simp] theorem push_lines (m : Msg) (d : Dev) : (push m d).lines = d.lines := rfl
@[simp] theorem push_tt (m : Msg) (d : Dev) : (push m d).tt = d.tt := rfl
@[simp] theorem push_ta (m : Msg) (d : Dev) : (push m d).ta = d.ta := rfl
@[simp] theorem push_rs (m : Msg) (d : Dev) : (push m d).rs = d.rs := rfl
@[simp] theorem push_am (m : Msg) (d : Dev) : (push m d).am = d.am := rfl
@[simp] theorem push_pu (m : Msg) (d : Dev) : (push m d).pu = d.pu := rfl
@[simp] theorem push_dc (m : Msg) (d : Dev) : (push m d).dc = d.dc := rfl
@[simp] theorem push_ah (m : Msg) (d : Dev) : (push m d).ah = d.ah := rfl
@[simp] theorem push_conds (m : Msg) (d : Dev) : (push m d).conds = d.conds := rfl
@[simp] theorem push_serial (m : Msg) (d : Dev) : (push m d).serial = d.serial := rfl
@[simp] theorem push_drawn (m : Msg) (d : Dev) : (push m d).drawn = d.drawn := rfl
@[simp] theorem push_agenda (m : Msg) (d : Dev) : (push m d).agenda = d.agenda ++ [m] := rfl

@[simp] theorem pushAll_bus (ms : List Msg) (d : Dev) : (pushAll ms d).bus = d.bus := rfl
@[simp] theorem pushAll_lines (ms : List Msg) (d : Dev) : (pushAll ms d).lines = d.lines := rfl
@[simp] theorem pushAll_tt (ms : List Msg) (d : Dev) : (pushAll ms d).tt = d.tt := rfl
@[simp] theorem pushAll_ta (ms : List Msg) (d : Dev) : (pushAll ms d).ta = d.ta := rfl
@[simp] theorem pushAll_rs (ms : List Msg) (d : Dev) : (pushAll ms d).rs = d.rs := rfl
@[simp] theorem pushAll_am (ms : List Msg) (d : Dev) : (pushAll ms d).am = d.am := rfl
@[simp] theorem pushAll_pu (ms : List Msg) (d : Dev) : (pushAll ms d).pu = d.pu := rfl
@[simp] theorem pushAll_dc (ms : List Msg) (d : Dev) : (pushAll ms d).dc = d.dc := rfl
@[simp] theorem pushAll_ah (ms : List Msg) (d : Dev) : (pushAll ms d).ah = d.ah := rfl
@[simp] theorem pushAll_conds (ms : List Msg) (d : Dev) : (pushAll ms d).conds = d.conds := rfl
@[simp] theorem pushAll_serial (ms : List Msg) (d : Dev) : (pushAll ms d).serial = d.serial := rfl
@[simp] theorem pushAll_drawn (ms : List Msg) (d : Dev) : (pushAll ms d).drawn = d.drawn := rfl
@[simp] theorem pushAll_agenda (ms : List Msg) (d : Dev) : (pushAll ms d).agenda = d.agenda ++ ms := rfl

@[simp] theorem latch_bus (c : Cond) (d : Dev) : (latch c d).bus = d.bus := rfl
@[simp] theorem latch_lines (c : Cond) (d : Dev) : (latch c d).lines = d.lines := rfl
@[simp] theorem latch_tt (c : Cond) (d : Dev) : (latch c d).tt = d.tt := rfl
@[simp] theorem latch_ta (c : Cond) (d : Dev) : (latch c d).ta = d.ta := rfl
@[simp] theorem latch_rs (c : Cond) (d : Dev) : (latch c d).rs = d.rs := rfl
@[simp] theorem latch_am (c : Cond) (d : Dev) : (latch c d).am = d.am := rfl
@[simp] theorem latch_pu (c : Cond) (d : Dev) : (latch c d).pu = d.pu := rfl
@[simp] theorem latch_dc (c : Cond) (d : Dev) : (latch c d).dc = d.dc := rfl
@[simp] theorem latch_ah (c : Cond) (d : Dev) : (latch c d).ah = d.ah := rfl
@[simp] theorem latch_conds (c : Cond) (d : Dev) : (latch c d).conds = d.conds ||| condBit c := rfl
@[simp] theorem latch_serial (c : Cond) (d : Dev) : (latch c d).serial = d.serial := rfl
@[simp] theorem latch_drawn (c : Cond) (d : Dev) : (latch c d).drawn = d.drawn := rfl
@[simp] theorem latch_agenda (c : Cond) (d : Dev) : (latch c d).agenda = d.agenda := rfl

@[simp] theorem unlatch_bus (c : CondSet) (d : Dev) : (unlatch c d).bus = d.bus := rfl
@[simp] theorem unlatch_lines (c : CondSet) (d : Dev) : (unlatch c d).lines = d.lines := rfl
@[simp] theorem unlatch_tt (c : CondSet) (d : Dev) : (unlatch c d).tt = d.tt := rfl
@[simp] theorem unlatch_ta (c : CondSet) (d : Dev) : (unlatch c d).ta = d.ta := rfl
@[simp] theorem unlatch_rs (c : CondSet) (d : Dev) : (unlatch c d).rs = d.rs := rfl
@[simp] theorem unlatch_am (c : CondSet) (d : Dev) : (unlatch c d).am = d.am := rfl
@[simp] theorem unlatch_pu (c : CondSet) (d : Dev) : (unlatch c d).pu = d.pu := rfl
@[simp] theorem unlatch_dc (c : CondSet) (d : Dev) : (unlatch c d).dc = d.dc := rfl
@[simp] theorem unlatch_ah (c : CondSet) (d : Dev) : (unlatch c d).ah = d.ah := rfl
@[simp] theorem unlatch_conds (c : CondSet) (d : Dev) : (unlatch c d).conds = d.conds &&& ~~~c := rfl
@[simp] theorem unlatch_serial (c : CondSet) (d : Dev) : (unlatch c d).serial = d.serial := rfl
@[simp] theorem unlatch_drawn (c : CondSet) (d : Dev) : (unlatch c d).drawn = d.drawn := rfl
@[simp] theorem unlatch_agenda (c : CondSet) (d : Dev) : (unlatch c d).agenda = d.agenda := rfl

@[simp] theorem setPage_bus (k : PageSlot) (x : Page) (d : Dev) : (setPage k x d).bus = d.bus := by cases k <;> rfl
@[simp] theorem setPage_lines (k : PageSlot) (x : Page) (d : Dev) :
    (setPage k x d).lines = d.lines := by cases k <;> rfl
@[simp] theorem setPage_tt (k : PageSlot) (x : Page) (d : Dev) : (setPage k x d).tt = d.tt := by cases k <;> rfl
@[simp] theorem setPage_ta (k : PageSlot) (x : Page) (d : Dev) : (setPage k x d).ta = d.ta := by cases k <;> rfl
@[simp] theorem setPage_rs (k : PageSlot) (x : Page) (d : Dev) : (setPage k x d).rs = d.rs := by cases k <;> rfl
@[simp] theorem setPage_am (k : PageSlot) (x : Page) (d : Dev) : (setPage k x d).am = d.am := by cases k <;> rfl
@[simp] theorem setPage_dc (k : PageSlot) (x : Page) (d : Dev) : (setPage k x d).dc = d.dc := by cases k <;> rfl
@[simp] theorem setPage_ah (k : PageSlot) (x : Page) (d : Dev) : (setPage k x d).ah = d.ah := by cases k <;> rfl
@[simp] theorem setPage_conds (k : PageSlot) (x : Page) (d : Dev) :
    (setPage k x d).conds = d.conds := by cases k <;> rfl
@[simp] theorem setPage_serial (k : PageSlot) (x : Page) (d : Dev) :
    (setPage k x d).serial = d.serial := by cases k <;> rfl
@[simp] theorem setPage_drawn (k : PageSlot) (x : Page) (d : Dev) :
    (setPage k x d).drawn = d.drawn := by cases k <;> rfl
@[simp] theorem setPage_agenda (k : PageSlot) (x : Page) (d : Dev) :
    (setPage k x d).agenda = d.agenda := by cases k <;> rfl
@[simp] theorem setPage_same (k : PageSlot) (x : Page) (d : Dev) : pageOf (setPage k x d) k = x := by cases k <;> rfl
@[simp] theorem setPage_other (k j : PageSlot) (x : Page) (d : Dev) (h : k ≠ j) :
    pageOf (setPage k x d) j = pageOf d j := by
  cases k <;> cases j <;> first | rfl | exact absurd rfl h

end Sys2Proof.Machine
end

