-- ==== Sys2Proof/Laws/Trunks.lean ====
section
/-! SUPPORT. TA works on the trunks and on the bus queues: what a claim, a release or an apply leaves of every other
block is said here once (`TrunksOnly`), so that no proof about a claimant unfolds TA. -/

namespace Sys2Proof.Machine

/-- Between `d` and `d'` nothing of LC, TT, RS, AM, PU, DC and AH, nor of the conditions, has changed. -/
structure TrunksOnly (d d' : Dev) : Prop where
  lines : d'.lines = d.lines
  tt : d'.tt = d.tt
  rs : d'.rs = d.rs
  am : d'.am = d.am
  pu : d'.pu = d.pu
  dc : d'.dc = d.dc
  ah : d'.ah = d.ah
  conds : d'.conds = d.conds

variable {d d' : Dev}

theorem TrunksOnly.refl (d : Dev) : TrunksOnly d d := ⟨rfl, rfl, rfl, rfl, rfl, rfl, rfl, rfl⟩

theorem TrunksOnly.trans {d'' : Dev} (h : TrunksOnly d d') (k : TrunksOnly d' d'') : TrunksOnly d d'' :=
  ⟨k.lines.trans h.lines, k.tt.trans h.tt, k.rs.trans h.rs, k.am.trans h.am, k.pu.trans h.pu, k.dc.trans h.dc,
    k.ah.trans h.ah, k.conds.trans h.conds⟩

theorem setRow_only {b : Building} {x : Row} : TrunksOnly d (setRow b x d) := ⟨rfl, rfl, rfl, rfl, rfl, rfl, rfl, rfl⟩
theorem setBarriers_only {x : List Barrier} : TrunksOnly d (setBarriers x d) := ⟨rfl, rfl, rfl, rfl, rfl, rfl, rfl, rfl⟩
theorem push_only {m : Msg} : TrunksOnly d (push m d) := ⟨rfl, rfl, rfl, rfl, rfl, rfl, rfl, rfl⟩
theorem pushAll_only {l : List Msg} : TrunksOnly d (pushAll l d) := ⟨rfl, rfl, rfl, rfl, rfl, rfl, rfl, rfl⟩

theorem enqueue_only {b : Building} {addr : Nat} {op : BusOp} {owner : Owner} :
    TrunksOnly d (enqueue b addr op owner d).2 := by
  unfold enqueue
  dsimp only
  split <;> exact ⟨rfl, rfl, rfl, rfl, rfl, rfl, rfl, rfl⟩

theorem requestApply_only {b : Building} : TrunksOnly d (requestApply b d) := ⟨rfl, rfl, rfl, rfl, rfl, rfl, rfl, rfl⟩

theorem leaveBarrier_only {c : Claimant} {b : Building} : TrunksOnly d (leaveBarrier c b d) := by
  unfold leaveBarrier
  split
  · split <;> exact ⟨rfl, rfl, rfl, rfl, rfl, rfl, rfl, rfl⟩
  · exact .refl d

theorem loseBuilding_only {b : Building} : TrunksOnly d (loseBuilding b d) := by
  unfold loseBuilding
  dsimp only
  split
  · exact setRow_only
  · exact setRow_only
  · split
    · exact push_only.trans setRow_only
    · exact (push_only.trans setRow_only).trans leaveBarrier_only

theorem tryStage_only {b : Building} : TrunksOnly d (tryStage b d) := by
  unfold tryStage
  split
  · split
    · have h (addr : Nat) (m : ZoneMap) (a : EnqAnswer) (d1 : Dev) (he : enqueue b addr (.stage m) .ta d = (a, d1)) :
          TrunksOnly d d1 := by
        have := enqueue_only (d := d) (b := b) (addr := addr) (op := .stage m) (owner := .ta)
        rwa [he] at this
      split
      · next he => exact (h _ _ _ _ he).trans setRow_only
      · next he => exact h _ _ _ _ he
      · next he => exact (h _ _ _ _ he).trans loseBuilding_only
    · exact loseBuilding_only
    · exact .refl d
  · exact .refl d

theorem placeStage_only {b : Building} {m : ZoneMap} {owner : Option Claimant} :
    TrunksOnly d (placeStage b m owner d) := setRow_only.trans tryStage_only

/-! ## Claims, releases and applying -/

theorem grantBuilding_only {c : Claimant} {prio : ClaimPrio} {b : Building} {m : ZoneMap} :
    TrunksOnly d (grantBuilding c prio b m d) := by
  unfold grantBuilding
  dsimp only
  split
  · split
    · exact .refl d
    · split
      · exact setRow_only.trans placeStage_only
      · exact (setBarriers_only.trans setRow_only).trans placeStage_only
  · exact setRow_only.trans placeStage_only
  · exact .refl d

theorem grantAll_only {c : Claimant} {prio : ClaimPrio} {l : List (Building × ZoneMap × ClaimAnswer)} :
    TrunksOnly d (grantAll c prio l d) := by
  induction l generalizing d with
  | nil => exact .refl d
  | cons x rest ih =>
    unfold grantAll
    split
    · exact grantBuilding_only.trans ih
    · exact ih

theorem tellRobbed_only {c : Claimant} {before : Dev} {as : Answers} : TrunksOnly d (tellRobbed c before as d) := by
  unfold tellRobbed
  split
  · exact .refl d
  · exact push_only

theorem checkBereft_only {before : Dev} : TrunksOnly d (checkBereft before d) := pushAll_only

theorem claimEach_only {c : Claimant} {prio : ClaimPrio} {atDeadline : Bool} {zones : ZoneSet} {l : List Building} :
    TrunksOnly d (claimEach c prio atDeadline zones l d).2 := by
  induction l generalizing d with
  | nil => exact .refl d
  | cons b rest ih =>
    unfold claimEach
    dsimp only
    split
    · exact grantBuilding_only.trans ih
    · exact ih

/-- A claim in SINGLE mode (R90). -/
theorem claimSingle_only {c : Claimant} {prio : ClaimPrio} {atDeadline : Bool} {zones : ZoneSet} {l : List Building} :
    TrunksOnly d (claimSingle c prio atDeadline zones l d).2 :=
  claimEach_only.trans (tellRobbed_only.trans checkBereft_only)

/-- A claim in SET mode (R91). -/
theorem claimSet_only {c : Claimant} {prio : ClaimPrio} {zones : ZoneSet} :
    TrunksOnly d (claimSet c prio zones d).2.2 := by
  unfold claimSet
  dsimp only
  split
  · exact .refl d
  · split
    · exact (grantAll_only.trans tellRobbed_only).trans checkBereft_only
    · exact .refl d

theorem releaseOne_only {c : Claimant} {b : Building} : TrunksOnly d (releaseOne c b d) := by
  unfold releaseOne
  split
  · exact (setRow_only.trans leaveBarrier_only).trans placeStage_only
  · exact .refl d

/-- A release (R96). -/
theorem releaseSet_only {c : Claimant} {set : BuildingSet} : TrunksOnly d (releaseSet c set d) := by
  unfold releaseSet
  induction bsList set generalizing d with
  | nil => exact .refl d
  | cons b rest ih => exact releaseOne_only.trans ih

/-- A holder's apply (R94). -/
theorem applyBuildings_only {c : Claimant} {set : BuildingSet} {src : Source} :
    TrunksOnly d (applyBuildings c set src d) := by
  unfold applyBuildings
  dsimp only
  split <;> exact setBarriers_only.trans push_only

/-- A source change (R88). -/
theorem changeSource_only {c : Claimant} {set : BuildingSet} {src : Source} :
    TrunksOnly d (changeSource c set src d).2 := by
  simp only [changeSource]
  exact ⟨rfl, rfl, rfl, rfl, rfl, rfl, rfl, rfl⟩

end Sys2Proof.Machine
end

