-- ==== Sys2Proof/Laws/Claimants.lean ====
section
/-! SUPPORT. What the shared operations of the claimants do, said once: a page that is closed (R144), and the request
that a new one merges into (R124). -/

namespace Sys2Proof.Machine

variable {d : Dev}

/-! ## Pages -/

@[simp] theorem setPage_twice {k : PageSlot} {x y : Page} : setPage k x (setPage k y d) = setPage k x d := by
  cases k <;> rfl

theorem pageOf_same {d' : Dev} (h : d'.pu = d.pu) (k : PageSlot) : pageOf d' k = pageOf d k := by
  cases k <;> simp [pageOf, h]

/-- A slot's lockout (R138): in EDGE mode, and in LEVEL mode while the switch is seen asserted. -/
theorem lockOut_eq {p : Page} :
    lockOut p = { p with lockout := p.lockout || decide (p.trigger = .edge) || p.seen } := by
  simp [lockOut, Bool.or_assoc]

theorem freeGen_pu {g : GenNo} : (freeGen g d).pu = d.pu := by
  unfold freeGen
  split
  · rfl
  · unfold stageRun
    split
    · rfl
    · exact applyBuildings_only.pu

/-- A page is closed: its buildings are released, its chime generator goes back, and the slot is IDLE with the buildings
in its released set (R144). -/
theorem closePage_eq {k : PageSlot} : closePage k d =
    let p := pageOf d k
    let freed := releaseSet (.page k) p.held d
    setPage k
      { p with
        state := .idle, started := false, held := 0, chimeGen := none, waitCount := 0, talkCount := 0
        released := p.released ||| p.held }
      (match p.chimeGen with
      | some g => freeGen g (setPage k { p with chimeGen := none } freed)
      | none => freed) := by
  unfold closePage giveChime
  dsimp only
  have h : pageOf (releaseSet (.page k) (pageOf d k).held d) k = pageOf d k := pageOf_same releaseSet_only.pu k
  rw [h]
  cases hc : (pageOf d k).chimeGen with
  | none =>
    dsimp only
    unfold modPage
    rw [h]
    simp [idlePage]
  | some g =>
    dsimp only
    unfold modPage
    rw [h, pageOf_same freeGen_pu k, setPage_same]
    simp [idlePage]

/-! ## The queue of announcements -/

/-- The request that a new one merges into is the first of its clip, zone set and priority (R124 step 6). -/
theorem sameReq_first {clip : Nat} {zones : ZoneSet} {prio : ReqPrio} {ahead behind : List AnnounceReq} {q : AnnounceReq}
    (hq : d.am.queue = ahead ++ q :: behind) (h : q.clip = clip ∧ q.zones = zones ∧ q.prio = prio)
    (ha : ∀ x ∈ ahead, ¬(x.clip = clip ∧ x.zones = zones ∧ x.prio = prio)) : sameReq d clip zones prio = some q := by
  unfold sameReq
  rw [hq, List.find?_append, List.find?_cons_of_pos (by simp [h]),
    List.find?_eq_none.2 fun x hx => by simpa [and_assoc] using ha x hx]
  rfl

theorem sameReq_absent {clip : Nat} {zones : ZoneSet} {prio : ReqPrio}
    (h : ∀ x ∈ d.am.queue, ¬(x.clip = clip ∧ x.zones = zones ∧ x.prio = prio)) : sameReq d clip zones prio = none :=
  List.find?_eq_none.2 fun x hx => by simpa [and_assoc] using h x hx

end Sys2Proof.Machine
end

