-- ==== Sys2Proof/Laws/Commands.lean ====
section
/-! SUPPORT. What the shared operations of the commands do, said once: what a request's service leaves alone, a host
request that is taken, waits, overruns or is lost (R174, R176), and a change in the blocks. -/

set_option linter.unreachableTactic false
set_option linter.unusedTactic false

namespace Sys2Proof.Machine

/-! ## Requests -/

/-- A request's service leaves the link's places and the supply as they are, and the queue of commands. -/
def Framed (s : State) (a : Answer) : Prop :=
  a.state.link.rx = s.link.rx ∧ a.state.link.inReply = s.link.inReply ∧ a.state.link.waiting = s.link.waiting ∧
    a.state.pending = s.pending ∧ isRunning a.state.tb = isRunning s.tb

theorem framed_refuse {s : State} {r : Result} : Framed s (refuse r s) := ⟨rfl, rfl, rfl, rfl, rfl⟩
theorem framed_mapDev {s : State} {f : Dev → Dev} : Framed s (accept (mapDev f s)) := ⟨rfl, rfl, rfl, rfl, rfl⟩
theorem framed_inBlocks {s : State} {f : Env → Dev → Dev} : Framed s (accept (inBlocks f s)) :=
  ⟨rfl, rfl, rfl, rfl, rfl⟩
theorem framed_ite {s : State} {c : Prop} [Decidable c] {a b : Answer} (ha : Framed s a) (hb : Framed s b) :
    Framed s (if c then a else b) := by
  split
  · exact ha
  · exact hb

theorem serveTimeSet_framed {day sec : Nat} {s : State} : Framed s (serveTimeSet day sec s) := by
  unfold serveTimeSet
  repeat' split
  all_goals first | exact framed_refuse | exact framed_mapDev | exact framed_inBlocks | exact ⟨rfl, rfl, rfl, rfl, rfl⟩
theorem serveTimeGet_framed {s : State} : Framed s (serveTimeGet s) := ⟨rfl, rfl, rfl, rfl, rfl⟩
theorem serveTrimSet_framed {trim : Int} {s : State} : Framed s (serveTrimSet trim s) := by
  unfold serveTrimSet
  repeat' split
  all_goals first | exact framed_refuse | exact framed_mapDev | exact framed_inBlocks | exact ⟨rfl, rfl, rfl, rfl, rfl⟩
theorem serveShiftPlan_framed {day stated : Nat} {shift : Int} {s : State} :
    Framed s (serveShiftPlan day stated shift s) := by
  unfold serveShiftPlan
  repeat' split
  all_goals first | exact framed_refuse | exact framed_mapDev | exact framed_inBlocks | exact ⟨rfl, rfl, rfl, rfl, rfl⟩
theorem serveShiftCancel_framed {s : State} : Framed s (serveShiftCancel s) := ⟨rfl, rfl, rfl, rfl, rfl⟩
theorem serveStampGet_framed {s : State} : Framed s (serveStampGet s) := ⟨rfl, rfl, rfl, rfl, rfl⟩
theorem serveStampClear_framed {s : State} : Framed s (serveStampClear s) := ⟨rfl, rfl, rfl, rfl, rfl⟩
theorem serveStationConfig_framed {building address kind : Nat} {s : State} :
    Framed s (serveStationConfig building address kind s) := by
  unfold serveStationConfig
  repeat' split
  all_goals first | exact framed_refuse | exact framed_mapDev | exact framed_inBlocks | exact ⟨rfl, rfl, rfl, rfl, rfl⟩
theorem serveStationStatus_framed {building : Nat} {s : State} : Framed s (serveStationStatus building s) := by
  unfold serveStationStatus
  repeat' split
  all_goals first | exact framed_refuse | exact framed_mapDev | exact framed_inBlocks | exact ⟨rfl, rfl, rfl, rfl, rfl⟩
theorem serveLineSetup_framed {i : LineNo} {b : Building} {address : Nat} {span hold catchUp width : Option Nat} {s : State} :
    Framed s (serveLineSetup i b address span hold catchUp width s) := by
  unfold serveLineSetup
  dsimp only
  repeat' split
  all_goals first | exact framed_refuse | exact framed_mapDev | exact framed_inBlocks | exact ⟨rfl, rfl, rfl, rfl, rfl⟩
theorem serveLineRemoval_framed {i : LineNo} {s : State} : Framed s (serveLineRemoval i s) := by
  unfold serveLineRemoval
  repeat' split
  all_goals first | exact framed_refuse | exact framed_mapDev | exact framed_inBlocks | exact ⟨rfl, rfl, rfl, rfl, rfl⟩
theorem serveLineConfig_framed {line building address : Nat} {span hold catchUp width : Option Nat} {s : State} :
    Framed s (serveLineConfig line building address span hold catchUp width s) := by
  unfold serveLineConfig
  repeat' split
  all_goals first | exact framed_refuse | exact framed_mapDev | exact framed_inBlocks | exact ⟨rfl, rfl, rfl, rfl, rfl⟩ | exact serveLineSetup_framed | exact serveLineRemoval_framed
theorem serveDialSet_framed {line hh mm : Nat} {s : State} : Framed s (serveDialSet line hh mm s) := by
  unfold serveDialSet
  repeat' split
  all_goals first | exact framed_refuse | exact framed_mapDev | exact framed_inBlocks | exact ⟨rfl, rfl, rfl, rfl, rfl⟩
theorem serveLineEnable_framed {line : Nat} {s : State} : Framed s (serveLineEnable line s) := by
  unfold serveLineEnable onLine
  repeat' split
  all_goals first | exact framed_refuse | exact framed_mapDev | exact framed_inBlocks | exact ⟨rfl, rfl, rfl, rfl, rfl⟩
theorem serveLineDisable_framed {line : Nat} {s : State} : Framed s (serveLineDisable line s) := by
  unfold serveLineDisable onLine
  repeat' split
  all_goals first | exact framed_refuse | exact framed_mapDev | exact framed_inBlocks | exact ⟨rfl, rfl, rfl, rfl, rfl⟩
theorem serveLineProbe_framed {line : Nat} {s : State} : Framed s (serveLineProbe line s) := by
  unfold serveLineProbe onLine
  split
  · exact framed_refuse
  · split
    · exact framed_refuse
    · exact framed_ite framed_refuse (framed_ite framed_refuse (framed_ite framed_refuse framed_inBlocks))
theorem serveLineStatus_framed {line : Nat} {s : State} : Framed s (serveLineStatus line s) := by
  unfold serveLineStatus
  repeat' split
  all_goals first | exact framed_refuse | exact framed_mapDev | exact framed_inBlocks | exact ⟨rfl, rfl, rfl, rfl, rfl⟩
theorem servePlanClear_framed {plan : Nat} {s : State} : Framed s (servePlanClear plan s) := by
  unfold servePlanClear
  repeat' split
  all_goals first | exact framed_refuse | exact framed_mapDev | exact framed_inBlocks | exact ⟨rfl, rfl, rfl, rfl, rfl⟩
theorem serveEntryAdd_framed {plan time : Nat} {kind : EntryArg} {zones : ZoneSet} {s : State} :
    Framed s (serveEntryAdd plan time kind zones s) := by
  unfold serveEntryAdd
  dsimp only
  repeat' split
  all_goals first | exact framed_refuse | exact framed_mapDev | exact framed_inBlocks | exact ⟨rfl, rfl, rfl, rfl, rfl⟩
theorem serveEntryRemove_framed {plan index : Nat} {s : State} : Framed s (serveEntryRemove plan index s) := by
  unfold serveEntryRemove
  repeat' split
  all_goals first | exact framed_refuse | exact framed_mapDev | exact framed_inBlocks | exact ⟨rfl, rfl, rfl, rfl, rfl⟩
theorem serveEntryList_framed {plan start : Nat} {s : State} : Framed s (serveEntryList plan start s) := by
  unfold serveEntryList
  repeat' split
  all_goals first | exact framed_refuse | exact framed_mapDev | exact framed_inBlocks | exact ⟨rfl, rfl, rfl, rfl, rfl⟩
theorem serveWeekSet_framed {plans : Vector Nat 7} {s : State} : Framed s (serveWeekSet plans s) := by
  unfold serveWeekSet
  repeat' split
  all_goals first | exact framed_refuse | exact framed_mapDev | exact framed_inBlocks | exact ⟨rfl, rfl, rfl, rfl, rfl⟩
theorem serveExceptionAdd_framed {first last plan : Nat} {s : State} :
    Framed s (serveExceptionAdd first last plan s) := by
  unfold serveExceptionAdd
  dsimp only
  repeat' split
  all_goals first | exact framed_refuse | exact framed_mapDev | exact framed_inBlocks | exact ⟨rfl, rfl, rfl, rfl, rfl⟩
theorem serveExceptionRemove_framed {day : Nat} {s : State} : Framed s (serveExceptionRemove day s) := by
  unfold serveExceptionRemove
  repeat' split
  all_goals first | exact framed_refuse | exact framed_mapDev | exact framed_inBlocks | exact ⟨rfl, rfl, rfl, rfl, rfl⟩
theorem serveExceptionList_framed {start : Nat} {s : State} : Framed s (serveExceptionList start s) := ⟨rfl, rfl, rfl, rfl, rfl⟩
theorem serveDayQuery_framed {day : Nat} {s : State} : Framed s (serveDayQuery day s) := by
  unfold serveDayQuery
  repeat' split
  all_goals first | exact framed_refuse | exact framed_mapDev | exact framed_inBlocks | exact ⟨rfl, rfl, rfl, rfl, rfl⟩
theorem serveZoneSet_framed {zones : ZoneSet} {value : Nat} {s : State} :
    Framed s (serveZoneSet zones value s) := by
  rcases value with _ | _ | n
  · exact framed_mapDev
  · exact framed_mapDev
  · exact framed_refuse
theorem serveQuietSet_framed {zones : ZoneSet} {t : Stamp} {s : State} : Framed s (serveQuietSet zones t s) := by
  unfold serveQuietSet
  split
  · exact framed_refuse
  · exact framed_ite framed_refuse (framed_ite framed_refuse framed_mapDev)
theorem serveQuietClear_framed {zones : ZoneSet} {s : State} : Framed s (serveQuietClear zones s) := framed_mapDev
theorem serveTrunkStatus_framed {building : Nat} {s : State} : Framed s (serveTrunkStatus building s) := by
  unfold serveTrunkStatus
  repeat' split
  all_goals first | exact framed_refuse | exact framed_mapDev | exact framed_inBlocks | exact ⟨rfl, rfl, rfl, rfl, rfl⟩
theorem servePatternSet_framed {pattern : Nat} {places : Vector StepPlace 8} {s : State} :
    Framed s (servePatternSet pattern places s) := by
  unfold servePatternSet
  dsimp only
  repeat' split
  all_goals first | exact framed_refuse | exact framed_mapDev | exact framed_inBlocks | exact ⟨rfl, rfl, rfl, rfl, rfl⟩
theorem servePatternGet_framed {pattern : Nat} {s : State} : Framed s (servePatternGet pattern s) := by
  unfold servePatternGet
  repeat' split
  all_goals first | exact framed_refuse | exact framed_mapDev | exact framed_inBlocks | exact ⟨rfl, rfl, rfl, rfl, rfl⟩
theorem serveRingNow_framed {pattern : Nat} {zones : ZoneSet} {s : State} :
    Framed s (serveRingNow pattern zones s) := by
  unfold serveRingNow
  repeat' split
  all_goals first | exact framed_refuse | exact framed_mapDev | exact framed_inBlocks | exact ⟨rfl, rfl, rfl, rfl, rfl⟩
theorem serveRunStop_framed {run : Nat} {s : State} : Framed s (serveRunStop run s) := by
  unfold serveRunStop
  repeat' split
  all_goals first | exact framed_refuse | exact framed_mapDev | exact framed_inBlocks | exact ⟨rfl, rfl, rfl, rfl, rfl⟩
theorem serveRunList_framed {first : Nat} {s : State} : Framed s (serveRunList first s) := by
  unfold serveRunList
  repeat' split
  all_goals first | exact framed_refuse | exact framed_mapDev | exact framed_inBlocks | exact ⟨rfl, rfl, rfl, rfl, rfl⟩
theorem serveClipDefine_framed {clip length : Nat} {s : State} : Framed s (serveClipDefine clip length s) := by
  unfold serveClipDefine
  repeat' split
  all_goals first | exact framed_refuse | exact framed_mapDev | exact framed_inBlocks | exact ⟨rfl, rfl, rfl, rfl, rfl⟩
theorem announceArrives_framed {clip : Nat} {zones : ZoneSet} {u : Urgency} {notBefore : Option Stamp} {expiry : Option Nat} {s : State} :
    Framed s (announceArrives clip zones u notBefore expiry s) := by
  unfold announceArrives
  dsimp only
  repeat' split
  all_goals first | exact framed_refuse | exact framed_mapDev | exact framed_inBlocks | exact ⟨rfl, rfl, rfl, rfl, rfl⟩
theorem serveAnnounce_framed {clip : Nat} {zones : ZoneSet} {priority : Nat} {notBefore : Option Stamp} {expiry : Option Nat} {s : State} :
    Framed s (serveAnnounce clip zones priority notBefore expiry s) := by
  unfold serveAnnounce
  repeat' split
  all_goals first | exact framed_refuse | exact framed_mapDev | exact framed_inBlocks | exact ⟨rfl, rfl, rfl, rfl, rfl⟩ | exact announceArrives_framed
theorem serveAnnounceCancel_framed {id : Nat} {s : State} : Framed s (serveAnnounceCancel id s) := by
  unfold serveAnnounceCancel
  repeat' split
  all_goals first | exact framed_refuse | exact framed_mapDev | exact framed_inBlocks | exact ⟨rfl, rfl, rfl, rfl, rfl⟩
theorem serveQueueList_framed {start : Nat} {s : State} : Framed s (serveQueueList start s) := ⟨rfl, rfl, rfl, rfl, rfl⟩
theorem serveFinishedList_framed {s : State} : Framed s (serveFinishedList s) := ⟨rfl, rfl, rfl, rfl, rfl⟩
theorem servePageSet_framed {slot : Nat} {zones : ZoneSet} {priority chime trigger : Nat} {s : State} :
    Framed s (servePageSet slot zones priority chime trigger s) := by
  unfold servePageSet
  repeat' split
  all_goals first | exact framed_refuse | exact framed_mapDev | exact framed_inBlocks | exact ⟨rfl, rfl, rfl, rfl, rfl⟩
theorem servePageClose_framed {slot : Nat} {s : State} : Framed s (servePageClose slot s) := by
  unfold servePageClose
  repeat' split
  all_goals first | exact framed_refuse | exact framed_mapDev | exact framed_inBlocks | exact ⟨rfl, rfl, rfl, rfl, rfl⟩
theorem serveScriptSet_framed {script preClip preDelay pattern evacuation clearLimit allClear : Nat} {s : State} :
    Framed s (serveScriptSet script preClip preDelay pattern evacuation clearLimit allClear s) := by
  unfold serveScriptSet
  dsimp only
  repeat' split
  all_goals first | exact framed_refuse | exact framed_mapDev | exact framed_inBlocks | exact ⟨rfl, rfl, rfl, rfl, rfl⟩
theorem serveDrillStart_framed {script : Nat} {set : BuildingSet} {s : State} :
    Framed s (serveDrillStart script set s) := by
  unfold serveDrillStart
  repeat' split
  all_goals first | exact framed_refuse | exact framed_mapDev | exact framed_inBlocks | exact ⟨rfl, rfl, rfl, rfl, rfl⟩
theorem serveDrillSchedule_framed {script : Nat} {set : BuildingSet} {moment : Stamp} {s : State} :
    Framed s (serveDrillSchedule script set moment s) := by
  unfold serveDrillSchedule
  repeat' split
  all_goals first | exact framed_refuse | exact framed_mapDev | exact framed_inBlocks | exact ⟨rfl, rfl, rfl, rfl, rfl⟩
theorem serveDrillCancel_framed {s : State} : Framed s (serveDrillCancel s) := by
  unfold serveDrillCancel
  repeat' split
  all_goals first | exact framed_refuse | exact framed_mapDev | exact framed_inBlocks | exact ⟨rfl, rfl, rfl, rfl, rfl⟩
theorem serveDrillRecordGet_framed {number : Nat} {s : State} : Framed s (serveDrillRecordGet number s) := by
  unfold serveDrillRecordGet
  split
  · exact framed_refuse
  · by_cases h : Option.isSome (Record.outcome ‹_›) = true
    · rw [if_pos h]; exact framed_mapDev (s := s)
    · rw [if_neg h]; exact framed_refuse (s := s) (r := .ok)
theorem serveAlarmResume_framed {s : State} : Framed s (serveAlarmResume s) := by
  unfold serveAlarmResume
  exact framed_ite framed_refuse (framed_ite framed_refuse framed_inBlocks)
theorem serveStatus_framed {s : State} : Framed s (serveStatus s) := ⟨rfl, rfl, rfl, rfl, rfl⟩
theorem serveConditionsClear_framed {c : CondSet} {s : State} : Framed s (serveConditionsClear c s) := framed_mapDev
theorem serveAttentionSet_framed {c : CondSet} {s : State} : Framed s (serveAttentionSet c s) := ⟨rfl, rfl, rfl, rfl, rfl⟩
theorem serveSettingsSet_framed {x : SettingsArg} {s : State} : Framed s (serveSettingsSet x s) := by
  unfold serveSettingsSet
  repeat' split
  all_goals first | exact framed_refuse | exact framed_mapDev | exact framed_inBlocks | exact ⟨rfl, rfl, rfl, rfl, rfl⟩
theorem serveSettingsGet_framed {s : State} : Framed s (serveSettingsGet s) := ⟨rfl, rfl, rfl, rfl, rfl⟩
theorem serveRestart_framed {s : State} : Framed s (serveRestart s) := ⟨rfl, rfl, rfl, rfl, rfl⟩

theorem serve_framed (r : Request) (s : State) : Framed s (serve r s) := by
  cases r with
  | timeSet => exact serveTimeSet_framed
  | timeGet => exact serveTimeGet_framed
  | trimSet => exact serveTrimSet_framed
  | shiftPlan => exact serveShiftPlan_framed
  | shiftCancel => exact serveShiftCancel_framed
  | stampGet => exact serveStampGet_framed
  | stampClear => exact serveStampClear_framed
  | stationConfig => exact serveStationConfig_framed
  | stationStatus => exact serveStationStatus_framed
  | lineConfig => exact serveLineConfig_framed
  | dialSet => exact serveDialSet_framed
  | lineEnable => exact serveLineEnable_framed
  | lineDisable => exact serveLineDisable_framed
  | lineProbe => exact serveLineProbe_framed
  | lineStatus => exact serveLineStatus_framed
  | planClear => exact servePlanClear_framed
  | entryAdd => exact serveEntryAdd_framed
  | entryRemove => exact serveEntryRemove_framed
  | entryList => exact serveEntryList_framed
  | weekSet => exact serveWeekSet_framed
  | exceptionAdd => exact serveExceptionAdd_framed
  | exceptionRemove => exact serveExceptionRemove_framed
  | exceptionList => exact serveExceptionList_framed
  | dayQuery => exact serveDayQuery_framed
  | zoneSet => exact serveZoneSet_framed
  | quietSet => exact serveQuietSet_framed
  | quietClear => exact serveQuietClear_framed
  | trunkStatus => exact serveTrunkStatus_framed
  | patternSet => exact servePatternSet_framed
  | patternGet => exact servePatternGet_framed
  | ringNow => exact serveRingNow_framed
  | runStop => exact serveRunStop_framed
  | runList => exact serveRunList_framed
  | clipDefine => exact serveClipDefine_framed
  | announce => exact serveAnnounce_framed
  | announceCancel => exact serveAnnounceCancel_framed
  | queueList => exact serveQueueList_framed
  | finishedList => exact serveFinishedList_framed
  | pageSet => exact servePageSet_framed
  | pageClose => exact servePageClose_framed
  | scriptSet => exact serveScriptSet_framed
  | drillStart => exact serveDrillStart_framed
  | drillSchedule => exact serveDrillSchedule_framed
  | drillCancel => exact serveDrillCancel_framed
  | drillRecordGet => exact serveDrillRecordGet_framed
  | alarmResume => exact serveAlarmResume_framed
  | status => exact serveStatus_framed
  | conditionsClear => exact serveConditionsClear_framed
  | attentionSet => exact serveAttentionSet_framed
  | settingsSet => exact serveSettingsSet_framed
  | settingsGet => exact serveSettingsGet_framed
  | restart => exact serveRestart_framed

@[simp] theorem hunting_tb (s : State) : (hunting s).tb = s.tb := rfl
@[simp] theorem hunting_dev (s : State) : (hunting s).dev = s.dev := rfl
@[simp] theorem hunting_pending (s : State) : (hunting s).pending = s.pending := rfl
@[simp] theorem hunting_settings (s : State) : (hunting s).link.settings = s.link.settings := rfl
@[simp] theorem hunting_env (s : State) : envOf (hunting s) = envOf s := rfl

/-- A request that a running device receives with none in reply is served, and its reply is being sent (R174). -/
theorem hostRequest_taken {s : State} {tag : Nat} {r : Request} (h : takesAtOnce s = true) :
    hostRequest tag r s =
      replied tag r (serve r (hunting s)).result (serve r (hunting s)).data (serve r (hunting s)).state := by
  simp only [takesAtOnce, Bool.and_eq_true, Option.isNone_iff_eq_none] at h
  have hrx : (serve r (hunting s)).state.link.rx = none := (serve_framed r (hunting s)).1
  have hrest : asksRestart (.request r) = decide (r = .restart) := by
    simp [asksRestart]
  unfold hostRequest frameArrives
  simp only [h.1, Bool.not_true, Bool.false_eq_true, if_false, setLink, h.2]
  simp only [takeContent, answerContent, setLink, replied, hrest]
  simp only [hunting, h.2] at hrx ⊢
  generalize serve r _ = a at hrx ⊢
  rcases a with ⟨⟨tb, ⟨rx, rxAt, i, w, st, m⟩, dev, p⟩, res, data⟩
  simp only at hrx ⊢
  rw [hrx]

/-- Every row that is a request is the end of its frame (R174). -/
theorem exec_asRequest {c : Instr} {tag : Nat} {r : Request} (s : State) (h : asRequest c = some (tag, r)) :
    exec c s = .next (hostRequest tag r s) := by
  cases c <;> simp only [asRequest, Option.some.injEq, Prod.mk.injEq, reduceCtorEq] at h
  all_goals (obtain ⟨rfl, rfl⟩ := h; rfl)

/-- A request that is taken at once, from what its service answers. -/
theorem exec_served {c : Instr} {tag : Nat} {r : Request} {s t : State} {res : Result} {data : List Byte}
    (hc : asRequest c = some (tag, r)) (h : takesAtOnce s = true)
    (ha : serve r (hunting s) = { state := hunting t, result := res, data := data }) :
    exec c s = .next (replied tag r res data t) := by
  rw [exec_asRequest s hc, hostRequest_taken h, ha]
  rfl

/-- A request that comes while one is in reply and none waits, waits; TIME SET loads its time as its frame ends
(R8, R174). -/
theorem hostRequest_waits {s : State} {tag : Nat} {r : Request} (hr : isRunning s.tb = true)
    (hi : s.link.inReply.isSome = true) (hw : s.link.waiting = none) :
    hostRequest tag r s = holdContent (kindOf r) tag (.request r) (hunting s) := by
  obtain ⟨x, hx⟩ := Option.isSome_iff_exists.1 hi
  unfold hostRequest frameArrives
  simp only [hr, Bool.not_true, Bool.false_eq_true, if_false, setLink, hx, hw, hunting]

/-- A third request is discarded, and LINK OVERRUN latched (R174). -/
theorem hostRequest_overrun {s : State} {tag : Nat} {r : Request} (hr : isRunning s.tb = true)
    (hi : s.link.inReply.isSome = true) (hw : s.link.waiting.isSome = true) :
    hostRequest tag r s = mapDev (latch .linkOverrun) (hunting s) := by
  obtain ⟨x, hx⟩ := Option.isSome_iff_exists.1 hi
  obtain ⟨y, hy⟩ := Option.isSome_iff_exists.1 hw
  unfold hostRequest frameArrives
  simp only [hr, Bool.not_true, Bool.false_eq_true, if_false, setLink, hx, hy, hunting]

/-- On backup and while RESETN is held, no frame is taken (R13, R176). -/
theorem hostRequest_lost {s : State} {tag : Nat} {r : Request} (hr : isRunning s.tb = false) :
    hostRequest tag r s = s := by
  unfold hostRequest frameArrives
  simp only [hr, Bool.not_false, if_true]

/-! ## The blocks -/

/-- A change in the blocks, written out. -/
theorem inBlocks_eq (f : Env → Dev → Dev) (s : State) : inBlocks f s = settled s (f (envOf s) s.dev) := rfl

theorem whenRunning_running {f : Env → Dev → Dev} {s : State} (h : isRunning s.tb = true) :
    whenRunning f s = settled s (f (envOf s) s.dev) := by
  unfold whenRunning
  rw [if_pos h]; rfl

theorem whenRunning_not {f : Env → Dev → Dev} {s : State} (h : isRunning s.tb = false) : whenRunning f s = s := by
  unfold whenRunning
  rw [h]; rfl

theorem whenPowered_powered {f : Env → Dev → Dev} {s : State} (h : isPowered s.tb = true) :
    whenPowered f s = settled s (f (envOf s) s.dev) := by
  unfold whenPowered
  rw [if_pos h]; rfl

theorem whenPowered_not {f : Env → Dev → Dev} {s : State} (h : isPowered s.tb = false) : whenPowered f s = s := by
  unfold whenPowered
  rw [h]; rfl

/-- Nothing is handed over where nothing is waiting to be. -/
theorem settle_nil {e : Env} {d : Dev} (h : d.agenda = []) : settle e d = d := by
  unfold settle
  rw [h]
  have : ({ d with agenda := [] } : Dev) = d := by rw [← h]
  rw [this]
  rfl

@[simp] theorem settled_tb (s : State) (d : Dev) : (settled s d).tb = s.tb := rfl
@[simp] theorem settled_link (s : State) (d : Dev) : (settled s d).link = s.link := rfl
@[simp] theorem settled_pending (s : State) (d : Dev) : (settled s d).pending = s.pending := rfl

end Sys2Proof.Machine
end

