-- ==== Sys2Proof/Laws/Sets.lean ====
section
/-! SUPPORT. What the sets of buildings and zones hold (00_scope.md, 5.3, R182): membership in each set that the
operations build, said once, so that no proof unfolds a bit map. -/

namespace Sys2Proof.Machine

/-- A set of buildings is known by its members. -/
theorem bs_ext {s t : BuildingSet} (h : ∀ b : Building, bsHas s b = bsHas t b) : s = t := by
  apply BitVec.eq_of_getLsbD_eq
  intro i hi
  exact h ⟨i, hi⟩

@[simp] theorem bsHas_empty (b : Building) : bsHas 0#8 b = false := by simp [bsHas]

@[simp] theorem bsHas_bsOne (a b : Building) : bsHas (bsOne a) b = decide (a = b) := by
  revert a b; decide

@[simp] theorem bsHas_or (s t : BuildingSet) (b : Building) : bsHas (s ||| t) b = (bsHas s b || bsHas t b) := by
  simp [bsHas]

@[simp] theorem bsHas_not (s : BuildingSet) (b : Building) : bsHas (~~~s) b = !bsHas s b := by
  simp [bsHas]

@[simp] theorem bsHas_and (s t : BuildingSet) (b : Building) : bsHas (s &&& t) b = (bsHas s b && bsHas t b) := by
  simp [bsHas]

@[simp] theorem bsHas_bsAdd (s : BuildingSet) (a b : Building) :
    bsHas (bsAdd s a) b = (bsHas s b || decide (a = b)) := by
  simp [bsAdd]

@[simp] theorem bsHas_bsRemove (s : BuildingSet) (a b : Building) :
    bsHas (bsRemove s a) b = (bsHas s b && !decide (a = b)) := by
  simp [bsRemove]

theorem mem_buildings (b : Building) : b ∈ buildings := List.mem_finRange b

theorem bsHas_foldl (p : Building → Bool) (b : Building) (l : List Building) (s : BuildingSet) :
    bsHas (l.foldl (fun x a => if p a then bsAdd x a else x) s) b = (bsHas s b || (decide (b ∈ l) && p b)) := by
  induction l generalizing s with
  | nil => simp
  | cons a rest ih =>
    rw [List.foldl_cons, ih]
    by_cases hab : a = b
    · subst hab
      cases p a <;> simp
    · have hba : ¬b = a := fun h => hab h.symm
      cases p a <;> simp [hab, hba]

/-- The buildings that satisfy `p` are those that satisfy it. -/
@[simp] theorem bsHas_bsWhere (p : Building → Bool) (b : Building) : bsHas (bsWhere p) b = p b := by
  simp [bsWhere, bsHas_foldl, mem_buildings]

@[simp] theorem mem_bsList (s : BuildingSet) (b : Building) : b ∈ bsList s ↔ bsHas s b = true := by
  simp [bsList, mem_buildings]

theorem bsList_nodup (s : BuildingSet) : (bsList s).Nodup := (List.nodup_finRange 8).filter _

/-- A set is empty when it has no member. -/
theorem bs_eq_zero_iff (s : BuildingSet) : s = 0 ↔ ∀ b : Building, bsHas s b = false := by
  constructor
  · rintro rfl b
    exact bsHas_empty b
  · intro h
    exact bs_ext fun b => (h b).trans (bsHas_empty b).symm

/-- A zone set touches the buildings of which it has a zone. -/
@[simp] theorem bsHas_zoneBuildings (z : ZoneSet) (b : Building) : bsHas (zoneBuildings z) b = (zoneMap z b != 0) := by
  simp [zoneBuildings]

end Sys2Proof.Machine
end

