-- ==== Sys2Proof/Laws/Due.lean ====
section
/-! SUPPORT. When a timed event is due (log entry 1): what each of the tests of one crystal tick says of the clock, and
which commands each of its lists holds. -/

namespace Sys2Proof.Machine

/-- A number of milliseconds has passed: 32 768 ticks a second (R3), and no tick sooner. -/
theorem ranOut_iff {clock since ms : Nat} :
    ranOut clock since (Config.msTicks ms) = true ↔ since * 1000 + ms * 32768 ≤ clock * 1000 := by
  unfold ranOut Config.msTicks
  rw [decide_eq_true_eq]
  omega

theorem reached_iff {clock : Nat} {t : Option Nat} : reached clock t = true ↔ ∃ u, t = some u ∧ u ≤ clock := by
  cases t <;> simp [reached]

theorem gapPassed_iff {s : State} :
    gapPassed s = true ↔ s.link.rx.isSome = true ∧ s.link.rxAt * 1000 + 100 * 32768 ≤ s.tb.clock * 1000 := by
  unfold gapPassed Config.msTicks
  simp
  intro _
  omega

theorem pttOver_iff {clock : Nat} {p : Page} :
    pttOver clock p = true ↔ ∃ u, p.since = some u ∧ u * 1000 + 50 * 32768 ≤ clock * 1000 := by
  unfold pttOver
  cases p.since <;> simp [ranOut_iff]

theorem qualified_iff {tb : Timebase} :
    qualified tb = true ↔ ∃ u, tb.qualifying = some u ∧ u * 1000 + 2000 * 32768 ≤ tb.clock * 1000 := by
  unfold qualified
  cases tb.qualifying <;> simp [ranOut_iff]

theorem genOver_iff {clock : Nat} {u : GenUse} : genOver clock u = true ↔ u.phase = .sounding ∧ u.steps ≠ [] ∧
    u.since * 1000 + ((u.steps.map fun | .tone _ n => n | .gap n => n).sum * 100) * 32768 ≤ clock * 1000 := by
  have h : (fun x : PStep => match x with | .tone _ n => n | .gap n => n) = stepDuration := by
    funext x
    cases x <;> rfl
  simp only [genOver, Bool.and_eq_true, ranOut_iff, decide_eq_true_eq, playLength, h, and_assoc]
  simp

theorem mem_one {p : Prop} [Decidable p] {c i : Instr} : (c ∈ if p then [i] else []) ↔ p ∧ c = i := by
  by_cases p <;> simp [*]

theorem mem_secondOver {tb : Timebase} {c : Instr} : c ∈ secondOver tb ↔ c = .secondEnd ∧ tb.secLen ≤ tb.sub := by
  unfold secondOver
  split <;> simp [*]

theorem mem_fireOver {clock : Nat} {h : AlarmHold} {c : Instr} : c ∈ fireOver clock h ↔ ∃ u, h.timing = some u ∧
    ((c = .activation ∧ h.level = true ∧ ranOut clock u (Config.msTicks 1000) = true) ∨
      (c = .quieting ∧ h.level = false ∧ ranOut clock u (Config.msTicks 10000) = true)) := by
  unfold fireOver
  cases h.timing with
  | none => simp
  | some t => cases h.level <;> simp [and_comm]

/-! ## The polls of one bus -/

/-- A row put in its place: the order is kept, and the row is added to what stands there. -/
theorem insertByAddress_spec {r : Station} {l : List Station} (h : l.Pairwise fun a b => a.addr ≤ b.addr) :
    (insertByAddress r l).Pairwise (fun a b => a.addr ≤ b.addr) ∧ ∀ x, x ∈ insertByAddress r l ↔ x = r ∨ x ∈ l := by
  induction l with
  | nil => simp [insertByAddress]
  | cons s rest ih =>
    obtain ⟨h1, h2⟩ := List.pairwise_cons.1 h
    obtain ⟨i1, i2⟩ := ih h2
    unfold insertByAddress
    split
    · refine ⟨List.pairwise_cons.2 ⟨fun x hx => ?_, h⟩, by simp⟩
      rcases List.mem_cons.1 hx with rfl | hx
      · omega
      · have := h1 x hx
        omega
    · refine ⟨List.pairwise_cons.2 ⟨fun x hx => ?_, i1⟩, fun x => by simp [i2, or_left_comm]⟩
      rcases (i2 x).1 hx with rfl | hx
      · omega
      · exact h1 x hx

/-- The rows of a bus by ascending address are its rows (R32). -/
theorem byAddress_spec (rows : List Station) :
    (byAddress rows).Pairwise (fun a b => a.addr ≤ b.addr) ∧ ∀ x, x ∈ byAddress rows ↔ x ∈ rows := by
  suffices h : ∀ (l acc : List Station), acc.Pairwise (fun a b => a.addr ≤ b.addr) →
      (l.foldl (fun l r => insertByAddress r l) acc).Pairwise (fun a b => a.addr ≤ b.addr) ∧
      ∀ x, x ∈ l.foldl (fun l r => insertByAddress r l) acc ↔ x ∈ acc ∨ x ∈ l by
    simpa [byAddress] using h rows [] (by simp)
  intro l
  induction l with
  | nil => intro acc h; simp [h]
  | cons a rest ih =>
    intro acc h
    obtain ⟨h1, h2⟩ := insertByAddress_spec (r := a) h
    obtain ⟨i1, i2⟩ := ih _ h1
    refine ⟨i1, fun x => ?_⟩
    rw [List.foldl_cons, i2, h2, List.mem_cons]
    tauto

/-- What a bus has due: the poll of a row whose poll time or probe poll time has come, and the driving-until time of
a row whose time has come. -/
theorem mem_dueOnBus {clock : Nat} {b : Building} {bus : Bus} {c : Instr} : c ∈ dueOnBus clock b bus ↔ ∃ r ∈ bus.rows,
    (c = .pollDue b r.addr ∧ (reached clock r.pollAt = true ∨ reached clock r.probeAt = true)) ∨
      (c = .drivingUntil b r.addr ∧ reached clock r.drivingUntil = true) := by
  simp only [dueOnBus, List.mem_flatMap, (byAddress_spec _).2, List.mem_append, mem_one, Bool.or_eq_true]
  constructor
  · rintro ⟨r, hr, ⟨h, rfl⟩ | ⟨h, rfl⟩⟩
    · exact ⟨r, hr, .inl ⟨rfl, h⟩⟩
    · exact ⟨r, hr, .inr ⟨rfl, h⟩⟩
  · rintro ⟨r, hr, ⟨rfl, h⟩ | ⟨rfl, h⟩⟩
    · exact ⟨r, hr, .inl ⟨h, rfl⟩⟩
    · exact ⟨r, hr, .inr ⟨h, rfl⟩⟩

/-- The polls of one bus that are due stand by ascending address (R32). -/
theorem dueOnBus_ascends {clock : Nat} {b : Building} {bus : Bus} :
    (dueOnBus clock b bus).Pairwise fun c c' => ∀ a x y, c = .pollDue a x → c' = .pollDue a y → x ≤ y := by
  unfold dueOnBus
  refine List.pairwise_flatMap.2 ⟨fun r _ => ?_, (byAddress_spec _).1.imp fun {p q} hpq c hc c' hc' a x y he he' => ?_⟩
  · cases reached clock r.pollAt || reached clock r.probeAt <;> cases reached clock r.drivingUntil <;> simp
  · subst he he'
    simp only [List.mem_append, mem_one, Instr.pollDue.injEq, reduceCtorEq, and_false, or_false] at hc hc'
    rw [hc.2.2, hc'.2.2]
    exact hpq

/-! ## The events of the blocks -/

/-- What the blocks have due. -/
theorem mem_dueInBlocks {clock : Nat} {d : Dev} {c : Instr} : c ∈ dueInBlocks clock d ↔
    (∃ b : Building, c ∈ dueOnBus clock b d.bus[b]) ∨
    (∃ g u, c = .patternEnd g ∧ d.rs.gens[g] = some u ∧ genOver clock u = true) ∨
    (c = .startWindow ∧ reached clock d.am.startBy = true) ∨
    (c = .endLimit ∧ d.am.player = .playing ∧ reached clock d.am.endBy = true) ∨
    (c = .stopWindow ∧ reached clock d.am.stopBy = true) ∨
    (∃ k, c = .pttChange k ∧ pttOver clock (pageOf d k) = true) ∨ c ∈ fireOver clock d.ah := by
  have hb : (c ∈ buildings.flatMap fun b => dueOnBus clock b d.bus[b]) ↔ ∃ b : Building, c ∈ dueOnBus clock b d.bus[b] := by
    simp only [List.mem_flatMap]
    exact ⟨fun ⟨b, _, h⟩ => ⟨b, h⟩, fun ⟨b, h⟩ => ⟨b, mem_buildings b, h⟩⟩
  have hg : (c ∈ generators.flatMap fun g => if (d.rs.gens[g]).any (genOver clock) then [Instr.patternEnd g] else []) ↔
      ∃ g u, c = .patternEnd g ∧ d.rs.gens[g] = some u ∧ genOver clock u = true := by
    simp only [List.mem_flatMap, mem_one, Option.any_eq_true]
    exact ⟨fun ⟨g, _, ⟨u, hu, ho⟩, h⟩ => ⟨g, u, h, hu, ho⟩, fun ⟨g, u, h, hu, ho⟩ => ⟨g, List.mem_finRange g, ⟨u, hu, ho⟩, h⟩⟩
  have hp : (∃ k, c = .pttChange k ∧ pttOver clock (pageOf d k) = true) ↔
      (pttOver clock d.pu.a = true ∧ c = .pttChange .a) ∨ (pttOver clock d.pu.b = true ∧ c = .pttChange .b) := by
    constructor
    · rintro ⟨k, rfl, h⟩
      cases k
      · exact .inl ⟨h, rfl⟩
      · exact .inr ⟨h, rfl⟩
    · rintro (⟨h, rfl⟩ | ⟨h, rfl⟩)
      · exact ⟨_, rfl, h⟩
      · exact ⟨_, rfl, h⟩
  rw [hp, ← hb, ← hg]
  simp only [dueInBlocks, List.mem_append, mem_one, Bool.and_eq_true, beq_iff_eq]
  constructor
  · rintro (((((((h | h) | ⟨h, e⟩) | ⟨⟨h, h'⟩, e⟩) | ⟨h, e⟩) | h) | h) | h)
    · exact .inl h
    · exact .inr (.inl h)
    · exact .inr (.inr (.inl ⟨e, h⟩))
    · exact .inr (.inr (.inr (.inl ⟨e, h', h⟩)))
    · exact .inr (.inr (.inr (.inr (.inl ⟨e, h⟩))))
    · exact .inr (.inr (.inr (.inr (.inr (.inl (.inl h))))))
    · exact .inr (.inr (.inr (.inr (.inr (.inl (.inr h))))))
    · exact .inr (.inr (.inr (.inr (.inr (.inr h)))))
  · rintro (h | h | ⟨e, h⟩ | ⟨e, h', h⟩ | ⟨e, h⟩ | (h | h) | h)
    · exact .inl (.inl (.inl (.inl (.inl (.inl (.inl h))))))
    · exact .inl (.inl (.inl (.inl (.inl (.inl (.inr h))))))
    · exact .inl (.inl (.inl (.inl (.inl (.inr ⟨h, e⟩)))))
    · exact .inl (.inl (.inl (.inl (.inr ⟨⟨h, h'⟩, e⟩))))
    · exact .inl (.inl (.inl (.inr ⟨h, e⟩)))
    · exact .inl (.inl (.inr h))
    · exact .inl (.inr h)
    · exact .inr h

end Sys2Proof.Machine
end

