-- ==== Sys2Proof/Laws/Kept.lean ====
section
/-! SUPPORT. `Kept d d'`: what the blocks keep of a state `d` in everything they do among themselves. The field
stations, the bus modes, the configuration and the inputs stay as they are; a condition stays latched; the bus
queues, the clock lines and the collections stay lawful; a trunk held by ALARM stays held. Laws/KeptOps.lean,
Laws/KeptBlocks.lean and Laws/KeptEvents.lean show that every function of the blocks keeps it, so that a claim about all of them
cites one lemma. -/

namespace Sys2Proof.Machine

/-! ## The parts -/

/-- A bus keeps its field stations, its mode, the stations configured on it, and a lawful queue. -/
structure BusKept (x y : Bus) : Prop where
  field : y.field = x.field
  alarm : y.alarm = x.alarm
  keys : y.rows.map (fun r => (r.addr, r.kind)) = x.rows.map fun r => (r.addr, r.kind)
  queue : queueLawful x = true → queueLawful y = true

/-- What a line's record keeps: all that LINE CONFIG, LINE ENABLE, LINE DISABLE and DIAL SET write and no event
does. -/
def lineSetup (l : Line) : Building × Nat × Nat × Nat × Nat × Nat × Bool × Option Nat :=
  (l.building, l.addr, l.span, l.hold, l.catchUp, l.width, l.enabled, l.setPos)

/-- A line keeps its configuration, and stays lawful. -/
structure LineKept (x y : Option Line) : Prop where
  setup : y.map lineSetup = x.map lineSetup
  lawful : x.all lineLawful = true → y.all lineLawful = true

def entrySetup (x : Entry) : Nat × Nat × EntryKind × ZoneSet := (x.slot, x.time, x.kind, x.zones)

/-- The timetable and the calendar keep what the host has entered. -/
structure TtKept (x y : Timetable) : Prop where
  plans : ∀ p : PlanNo, (y.plans[p]).map entrySetup = (x.plans[p]).map entrySetup
  week : y.week = x.week
  exceptions : y.exceptions = x.exceptions

/-- The zones stay enabled or disabled, and a row held by ALARM stays held. -/
structure TaKept (x y : Trunks) : Prop where
  enabled : ∀ i : Fin 64, (y.zones[i]).enabled = (x.zones[i]).enabled
  alarm : ∀ b : Building, (x.rows[b]).holder = .alarm → (y.rows[b]).holder = .alarm

structure RsKept (x y : Ring) : Prop where
  patterns : y.patterns = x.patterns
  waitList : x.waitList.length ≤ 8 → y.waitList.length ≤ 8

structure AmKept (x y : Announcer) : Prop where
  clips : y.clips = x.clips
  cplay : y.cplay = x.cplay
  queue : x.queue.length ≤ 12 → y.queue.length ≤ 12
  finished : x.finished.length ≤ 8 → y.finished.length ≤ 8

def pageSetup (p : Page) : Bool × ZoneSet × Urgency × Option Nat × Trigger × Bool :=
  (p.configured, p.zones, p.urgency, p.chimePattern, p.trigger, p.level)

structure PuKept (x y : Pages) : Prop where
  a : pageSetup y.a = pageSetup x.a
  b : pageSetup y.b = pageSetup x.b

structure DcKept (x y : DrillControl) : Prop where
  scripts : y.scripts = x.scripts
  records : x.records.length ≤ 8 → y.records.length ≤ 8

structure AhKept (x y : AlarmHold) : Prop where
  active : y.active = x.active
  level : y.level = x.level
  hold : y.hold = x.hold

/-! ## The whole -/

structure Kept (d d' : Dev) : Prop where
  bus : ∀ b : Building, BusKept d.bus[b] d'.bus[b]
  lines : ∀ i : LineNo, LineKept d.lines[i] d'.lines[i]
  tt : TtKept d.tt d'.tt
  ta : TaKept d.ta d'.ta
  rs : RsKept d.rs d'.rs
  am : AmKept d.am d'.am
  pu : PuKept d.pu d'.pu
  dc : DcKept d.dc d'.dc
  ah : AhKept d.ah d'.ah
  conds : ∀ i : Nat, d.conds.getLsbD i = true → d'.conds.getLsbD i = true

/-! ## Nothing changed, and one change after another -/

theorem BusKept.refl (x : Bus) : BusKept x x := ⟨rfl, rfl, rfl, id⟩
theorem LineKept.refl (x : Option Line) : LineKept x x := ⟨rfl, id⟩
theorem TtKept.refl (x : Timetable) : TtKept x x := ⟨fun _ => rfl, rfl, rfl⟩
theorem TaKept.refl (x : Trunks) : TaKept x x := ⟨fun _ => rfl, fun _ => id⟩
theorem RsKept.refl (x : Ring) : RsKept x x := ⟨rfl, id⟩
theorem AmKept.refl (x : Announcer) : AmKept x x := ⟨rfl, rfl, id, id⟩
theorem PuKept.refl (x : Pages) : PuKept x x := ⟨rfl, rfl⟩
theorem DcKept.refl (x : DrillControl) : DcKept x x := ⟨rfl, id⟩
theorem AhKept.refl (x : AlarmHold) : AhKept x x := ⟨rfl, rfl, rfl⟩

theorem Kept.refl (d : Dev) : Kept d d :=
  ⟨fun _ => .refl _, fun _ => .refl _, .refl _, .refl _, .refl _, .refl _, .refl _, .refl _, .refl _, fun _ => id⟩

theorem BusKept.trans {x y z : Bus} (h : BusKept x y) (k : BusKept y z) : BusKept x z :=
  ⟨k.field.trans h.field, k.alarm.trans h.alarm, k.keys.trans h.keys, fun q => k.queue (h.queue q)⟩
theorem LineKept.trans {x y z : Option Line} (h : LineKept x y) (k : LineKept y z) : LineKept x z :=
  ⟨k.setup.trans h.setup, fun q => k.lawful (h.lawful q)⟩
theorem TtKept.trans {x y z : Timetable} (h : TtKept x y) (k : TtKept y z) : TtKept x z :=
  ⟨fun p => (k.plans p).trans (h.plans p), k.week.trans h.week, k.exceptions.trans h.exceptions⟩
theorem TaKept.trans {x y z : Trunks} (h : TaKept x y) (k : TaKept y z) : TaKept x z :=
  ⟨fun i => (k.enabled i).trans (h.enabled i), fun b q => k.alarm b (h.alarm b q)⟩
theorem RsKept.trans {x y z : Ring} (h : RsKept x y) (k : RsKept y z) : RsKept x z :=
  ⟨k.patterns.trans h.patterns, fun q => k.waitList (h.waitList q)⟩
theorem AmKept.trans {x y z : Announcer} (h : AmKept x y) (k : AmKept y z) : AmKept x z :=
  ⟨k.clips.trans h.clips, k.cplay.trans h.cplay, fun q => k.queue (h.queue q), fun q => k.finished (h.finished q)⟩
theorem PuKept.trans {x y z : Pages} (h : PuKept x y) (k : PuKept y z) : PuKept x z :=
  ⟨k.a.trans h.a, k.b.trans h.b⟩
theorem DcKept.trans {x y z : DrillControl} (h : DcKept x y) (k : DcKept y z) : DcKept x z :=
  ⟨k.scripts.trans h.scripts, fun q => k.records (h.records q)⟩
theorem AhKept.trans {x y z : AlarmHold} (h : AhKept x y) (k : AhKept y z) : AhKept x z :=
  ⟨k.active.trans h.active, k.level.trans h.level, k.hold.trans h.hold⟩

theorem Kept.trans {d e f : Dev} (h : Kept d e) (k : Kept e f) : Kept d f :=
  ⟨fun b => (h.bus b).trans (k.bus b), fun i => (h.lines i).trans (k.lines i), h.tt.trans k.tt, h.ta.trans k.ta,
    h.rs.trans k.rs, h.am.trans k.am, h.pu.trans k.pu, h.dc.trans k.dc, h.ah.trans k.ah,
    fun i q => k.conds i (h.conds i q)⟩

/-! ## What it gives for the laws of Safety.lean -/

theorem Kept.queuesLawful {d d' : Dev} (h : Kept d d') (q : queuesLawful d = true) : queuesLawful d' = true := by
  simp only [Machine.queuesLawful, List.all_eq_true] at q ⊢
  exact fun b hb => (h.bus b).queue (q b hb)

theorem Kept.linesLawful {d d' : Dev} (h : Kept d d') (q : linesLawful d = true) : linesLawful d' = true := by
  simp only [Machine.linesLawful, List.all_eq_true] at q ⊢
  exact fun i hi => (h.lines i).lawful (q i hi)

theorem Kept.capsLawful {d d' : Dev} (h : Kept d d') (q : capsLawful d = true) : capsLawful d' = true := by
  simp only [Machine.capsLawful, Bool.and_eq_true, decide_eq_true_eq, List.all_eq_true] at q ⊢
  obtain ⟨⟨⟨⟨⟨q1, q2⟩, q3⟩, q4⟩, q5⟩, q6⟩ := q
  refine ⟨⟨⟨⟨⟨fun p hp => ?_, ?_⟩, h.rs.waitList q3⟩, h.am.queue q4⟩, h.am.finished q5⟩, h.dc.records q6⟩
  · have := congrArg List.length (h.tt.plans p)
    simp only [List.length_map] at this
    rw [this]; exact q1 p hp
  · rw [h.tt.exceptions]; exact q2

theorem condsWithin_iff (c c' : CondSet) :
    condsWithin c c' = true ↔ ∀ i : Nat, c.getLsbD i = true → c'.getLsbD i = true := by
  simp only [condsWithin, beq_iff_eq]
  constructor
  · intro h i hi
    have := congrArg (fun x => BitVec.getLsbD x i) h
    simp only [BitVec.getLsbD_and, hi, Bool.true_and] at this
    exact this
  · intro h
    apply BitVec.eq_of_getLsbD_eq
    intro i _
    simp only [BitVec.getLsbD_and]
    cases hc : c.getLsbD i
    · rfl
    · rw [h i hc]; rfl

theorem Kept.condsWithin {d d' : Dev} (h : Kept d d') : condsWithin d.conds d'.conds = true :=
  (condsWithin_iff _ _).2 h.conds

/-- A configured station of a kind stays one. -/
theorem BusKept.rowOfKind_isSome {x y : Bus} (h : BusKept x y) (k : StationKind) :
    (rowOfKind y k).isSome = (rowOfKind x k).isSome := by
  have e (z : Bus) : (rowOfKind z k).isSome = (z.rows.map fun r => (r.addr, r.kind)).any fun p => p.2 == k := by
    simp [rowOfKind, List.any_map, Function.comp_def]
    rw [Bool.eq_iff_iff]; simp
  rw [e, e, h.keys]

theorem Kept.trunksForced {d d' : Dev} (h : Kept d d') (q : trunksForced d = true) : trunksForced d' = true := by
  simp only [Machine.trunksForced, Bool.or_eq_true, List.all_eq_true] at q ⊢
  rw [h.ah.hold]
  refine q.imp id fun q b hb => ?_
  rcases q b hb with q | q
  · left
    have := (h.bus b).rowOfKind_isSome .zoneSwitch
    simp only [switchOf, Option.isNone_iff_eq_none, ← Option.not_isSome_iff_eq_none, this] at q ⊢
    exact q
  · right
    simp only [beq_iff_eq] at q ⊢
    exact h.ta.alarm b q

end Sys2Proof.Machine
end

