-- ==== Sys2Proof/Laws/KeptOps.lean ====
section
/-! SUPPORT. The shared operations keep what `Kept` says: each update of one place of the state, given that the place
keeps its part. Every lemma is in the form "if `d0` is kept up to `d`, it is kept up to the operation on `d`". -/

namespace Sys2Proof.Machine

variable {d0 d : Dev}

/-! ## Parts of the device replaced -/

theorem setBus_kept {b : Building} {x : Bus} (h : Kept d0 d) (hx : BusKept d.bus[b] x) : Kept d0 (setBus b x d) := by
  refine h.trans { Kept.refl d with bus := fun c => ?_ }
  simp only [setBus_bus, put_get_any]
  split
  · subst_vars; exact hx
  · exact .refl _

theorem setLine_kept {i : LineNo} {x : Option Line} (h : Kept d0 d) (hx : LineKept d.lines[i] x) :
    Kept d0 (setLine i x d) := by
  refine h.trans { Kept.refl d with lines := fun j => ?_ }
  simp only [setLine_lines, put_get_any]
  split
  · subst_vars; exact hx
  · exact .refl _

theorem modLine_kept {i : LineNo} {f : Line → Line} (h : Kept d0 d) (hs : ∀ l, lineSetup (f l) = lineSetup l)
    (hl : ∀ l, lineLawful l = true → lineLawful (f l) = true) : Kept d0 (modLine i f d) := by
  unfold modLine
  split
  · next l hl0 =>
    refine setLine_kept h ⟨?_, ?_⟩
    · rw [hl0]; simp only [Option.map_some, hs]
    · rw [hl0]; simpa using hl l
  · exact h

theorem setRow_kept {b : Building} {x : Row} (h : Kept d0 d)
    (hx : (d.ta.rows[b]).holder = .alarm → x.holder = .alarm) : Kept d0 (setRow b x d) := by
  refine h.trans { Kept.refl d with ta := ⟨fun _ => rfl, fun c => ?_⟩ }
  simp only [setRow_ta_rows, put_get_any]
  split
  · subst_vars; exact hx
  · exact id

theorem withTa_kept {x : Trunks} (h : Kept d0 d) (hx : TaKept d.ta x) : Kept d0 { d with ta := x } :=
  h.trans { Kept.refl d with ta := hx }
theorem withRs_kept {x : Ring} (h : Kept d0 d) (hx : RsKept d.rs x) : Kept d0 { d with rs := x } :=
  h.trans { Kept.refl d with rs := hx }
theorem withDc_kept {x : DrillControl} (h : Kept d0 d) (hx : DcKept d.dc x) : Kept d0 { d with dc := x } :=
  h.trans { Kept.refl d with dc := hx }
theorem withPu_kept {x : Pages} (h : Kept d0 d) (hx : PuKept d.pu x) : Kept d0 { d with pu := x } :=
  h.trans { Kept.refl d with pu := hx }
theorem setAm_kept {x : Announcer} (h : Kept d0 d) (hx : AmKept d.am x) : Kept d0 (setAm x d) :=
  h.trans { Kept.refl d with am := hx }
theorem setAh_kept {x : AlarmHold} (h : Kept d0 d) (hx : AhKept d.ah x) : Kept d0 (setAh x d) :=
  h.trans { Kept.refl d with ah := hx }
theorem setTt_kept {x : Timetable} (h : Kept d0 d) (hx : TtKept d.tt x) : Kept d0 (setTt x d) :=
  h.trans { Kept.refl d with tt := hx }
theorem withSerial_kept {n : Nat} (h : Kept d0 d) : Kept d0 { d with serial := n } :=
  h.trans { Kept.refl d with }
theorem withDrawn_kept {n : Nat} (h : Kept d0 d) : Kept d0 { d with drawn := n } :=
  h.trans { Kept.refl d with }
theorem withAgenda_kept {l : List Msg} (h : Kept d0 d) : Kept d0 { d with agenda := l } :=
  h.trans { Kept.refl d with }
theorem push_kept {m : Msg} (h : Kept d0 d) : Kept d0 (push m d) := h.trans { Kept.refl d with }
theorem pushAll_kept {ms : List Msg} (h : Kept d0 d) : Kept d0 (pushAll ms d) := h.trans { Kept.refl d with }

theorem latch_kept {c : Cond} (h : Kept d0 d) : Kept d0 (latch c d) :=
  h.trans { Kept.refl d with conds := fun i hi => by simp [hi] }

theorem setBarriers_kept {x : List Barrier} (h : Kept d0 d) : Kept d0 (setBarriers x d) :=
  withTa_kept h ⟨fun _ => rfl, fun _ => id⟩
theorem setGen_kept {g : GenNo} {x : Option GenUse} (h : Kept d0 d) : Kept d0 (setGen g x d) :=
  withRs_kept h ⟨rfl, id⟩
theorem setRun_kept {r : RunIx} {x : Option Run} (h : Kept d0 d) : Kept d0 (setRun r x d) :=
  withRs_kept h ⟨rfl, id⟩
theorem setDrill_kept {x : Option Drill} (h : Kept d0 d) : Kept d0 (setDrill x d) := withDc_kept h ⟨rfl, id⟩
theorem setDcLamp_kept {b : Building} {x : LampKeep} (h : Kept d0 d) : Kept d0 (setDcLamp b x d) :=
  withDc_kept h ⟨rfl, id⟩
theorem setAhLamp_kept {b : Building} {x : LampKeep} (h : Kept d0 d) : Kept d0 (setAhLamp b x d) :=
  h.trans { Kept.refl d with ah := ⟨rfl, rfl, rfl⟩ }
theorem setResult_kept {x : ScheduledResult} (h : Kept d0 d) : Kept d0 (setResult x d) := withDc_kept h ⟨rfl, id⟩
theorem setDrillSlot_kept {x : Option DrillPlan} (h : Kept d0 d) : Kept d0 (setDrillSlot x d) :=
  withDc_kept h ⟨rfl, id⟩

theorem setLamp_kept {who : Keeper} {b : Building} {k : LampKeep} (h : Kept d0 d) : Kept d0 (setLamp who b k d) := by
  cases who
  · exact setDcLamp_kept h
  · exact setAhLamp_kept h

theorem setPage_kept {k : PageSlot} {x : Page} (h : Kept d0 d) (hx : pageSetup x = pageSetup (pageOf d k)) :
    Kept d0 (setPage k x d) := by
  cases k
  · exact withPu_kept h ⟨hx, rfl⟩
  · exact withPu_kept h ⟨rfl, hx⟩

theorem modPage_kept {k : PageSlot} {f : Page → Page} (h : Kept d0 d) (hf : ∀ p, pageSetup (f p) = pageSetup p) :
    Kept d0 (modPage k f d) := setPage_kept h (hf _)

theorem modRecord_kept {n : Nat} {f : Record → Record} (h : Kept d0 d) : Kept d0 (modRecord n f d) :=
  withDc_kept h ⟨rfl, fun q => by simpa using q⟩

theorem modReq_kept {id : Nat} {f : AnnounceReq → AnnounceReq} (h : Kept d0 d) : Kept d0 (modReq id f d) :=
  setAm_kept h ⟨rfl, rfl, fun q => by simpa using q, fun q => q⟩

theorem modDrill_kept {f : Drill → Drill} (h : Kept d0 d) : Kept d0 (modDrill f d) := setDrill_kept h

theorem modRun_kept {r : RunIx} {f : Run → Run} (h : Kept d0 d) : Kept d0 (modRun r f d) := by
  unfold modRun
  split
  · exact setRun_kept h
  · exact h

theorem setPlan_kept {p : PlanNo} {l : List Entry} (h : Kept d0 d)
    (hl : l.map entrySetup = (d.tt.plans[p]).map entrySetup) : Kept d0 (setPlan p l d) := by
  refine setTt_kept h ⟨fun q => ?_, rfl, rfl⟩
  simp only [put_get_any]
  split
  · subst_vars; exact hl
  · rfl

theorem modToday_kept {f : Entry → Entry} (h : Kept d0 d) (hf : ∀ x, entrySetup (f x) = entrySetup x) :
    Kept d0 (modToday f d) := by
  unfold modToday
  split
  · refine setPlan_kept h ?_
    simp [List.map_map, Function.comp_def, hf]
  · exact h

/-! ## Buses -/

/-- A rewriting of the rows that keeps every address and kind. -/
theorem rows_kept {bus : Bus} {f : Station → Station} (hf : ∀ r, (f r).addr = r.addr ∧ (f r).kind = r.kind) :
    BusKept bus { bus with rows := bus.rows.map f } :=
  ⟨rfl, rfl, by simp [List.map_map, Function.comp_def, hf], id⟩

theorem modStation_kept {bus : Bus} {addr : Nat} {f : Station → Station}
    (hf : ∀ r, (f r).addr = r.addr ∧ (f r).kind = r.kind) : BusKept bus (modStation bus addr f) := by
  refine rows_kept fun r => ?_
  split
  · exact hf r
  · exact ⟨rfl, rfl⟩

/-- A queue that has lost commands is as lawful as it was. -/
theorem queue_shorter_lawful {x y : Bus} (ha : y.alarm = x.alarm) (hq : y.queue.Sublist x.queue)
    (h : queueLawful x = true) : queueLawful y = true := by
  have len := hq.length_le
  unfold queueLawful at h ⊢
  rw [ha]
  cases hm : x.alarm
  · simp only [hm, Bool.false_eq_true, if_false, decide_eq_true_eq] at h ⊢; omega
  · simp only [hm, if_true, Bool.and_eq_true, decide_eq_true_eq, List.all_eq_true] at h ⊢
    exact ⟨by omega, fun c hc => h.2 c (hq.subset hc)⟩

/-- What R31's table accepts, the queue has room for. -/
theorem accepted_lawful {bus : Bus} {addr : Nat} {op : BusOp} {serial n : Nat} {c : Command} (hc : c.op = op)
    (ha : enqueueCheck bus addr op serial = .accepted n) (h : queueLawful bus = true) :
    queueLawful { bus with queue := bus.queue ++ [c] } = true := by
  unfold enqueueCheck at ha
  split at ha
  · cases ha
  · split at ha
    · cases ha
    · split at ha
      · cases ha
      · split at ha
        · cases ha
        · next hs =>
          split at ha
          · cases ha
          · next hcap =>
            unfold queueLawful at h ⊢
            simp only [queueCap, Config.queueCapAlarm, Config.queueCapNormal] at hcap
            cases hm : bus.alarm
            · simp only [hm, if_false, Bool.false_eq_true, decide_eq_true_eq, List.length_append,
                List.length_singleton] at hcap ⊢
              omega
            · simp only [hm, if_true, Bool.and_eq_true, decide_eq_true_eq, List.all_eq_true, List.length_append,
                List.length_singleton, List.mem_append, List.mem_singleton, Bool.true_and,
                Bool.not_eq_true] at h hcap hs ⊢
              refine ⟨by omega, fun x hx => ?_⟩
              rcases hx with hx | rfl
              · exact h.2 x hx
              · rw [hc]; simpa using hs

/-- Placing a command keeps everything (R31). -/
theorem enqueue_kept {b : Building} {addr : Nat} {op : BusOp} {owner : Owner} (h : Kept d0 d) :
    Kept d0 (enqueue b addr op owner d).2 := by
  unfold enqueue
  dsimp only
  split
  · next n hn =>
    refine push_kept (setBus_kept (withSerial_kept h) ?_)
    exact ⟨rfl, rfl, rfl, accepted_lawful (c := { addr := addr, op := op, owner := owner, serial := n }) rfl hn⟩
  · exact h

theorem enqueue_kept_eq {b : Building} {addr : Nat} {op : BusOp} {owner : Owner} {a : EnqAnswer} {d' : Dev}
    (he : enqueue b addr op owner d = (a, d')) (h : Kept d0 d) : Kept d0 d' := by
  have := enqueue_kept (b := b) (addr := addr) (op := op) (owner := owner) h
  rwa [he] at this

theorem startChoice_kept {e : Env} {b : Building} {bus : Bus} : BusKept bus (startChoice e b bus) := by
  unfold startChoice
  split
  · exact ⟨rfl, rfl, rfl, id⟩
  · split
    · exact ⟨rfl, rfl, rfl, id⟩
    · split
      · refine BusKept.trans ?_ (modStation_kept (fun _ => ⟨rfl, rfl⟩))
        exact ⟨rfl, rfl, rfl, id⟩
      · split
        · exact .refl _
        · next c rest hq =>
          split
          · refine ⟨rfl, rfl, rfl, queue_shorter_lawful rfl ?_⟩
            rw [hq]; exact List.sublist_cons_self c rest
          · exact .refl _

theorem startBus_kept {e : Env} {b : Building} (h : Kept d0 d) : Kept d0 (startBus e b d) := by
  unfold startBus
  split
  · exact setBus_kept h startChoice_kept
  · exact h

theorem requestApply_kept {b : Building} (h : Kept d0 d) : Kept d0 (requestApply b d) :=
  push_kept (setBus_kept h ⟨rfl, rfl, rfl, id⟩)

theorem repacePoll_keys (e : Env) (bus : Bus) (r : Station) :
    (repacePoll e bus r).addr = r.addr ∧ (repacePoll e bus r).kind = r.kind := by
  unfold repacePoll
  dsimp only
  repeat' split
  all_goals exact ⟨rfl, rfl⟩

theorem setDrillFast_kept {e : Env} {b : Building} {v : Bool} (h : Kept d0 d) : Kept d0 (setDrillFast e b v d) := by
  unfold setDrillFast
  dsimp only
  split
  · exact h
  · refine push_kept (setBus_kept h ?_)
    exact BusKept.trans (y := { d.bus[b] with drillFast := v }) ⟨rfl, rfl, rfl, id⟩ (rows_kept (repacePoll_keys e _))

theorem setAlarmFast_kept {e : Env} {b : Building} {v : Bool} (h : Kept d0 d) : Kept d0 (setAlarmFast e b v d) := by
  unfold setAlarmFast
  dsimp only
  split
  · exact h
  · refine push_kept (setBus_kept h ?_)
    exact BusKept.trans (y := { d.bus[b] with alarmFast := v }) ⟨rfl, rfl, rfl, id⟩ (rows_kept (repacePoll_keys e _))

end Sys2Proof.Machine
end

