-- ==== Sys2Proof/Laws/KeptBlocks.lean ====
section
/-! SUPPORT. TA, RS, AM, PU and DC keep what `Kept` says in everything they do in answer to a message. -/

namespace Sys2Proof.Machine

variable {d0 d : Dev}

theorem endQuiets_kept {now : Stamp} (h : Kept d0 d) : Kept d0 (endQuiets now d) := by
  refine withTa_kept h ⟨fun i => ?_, fun _ => id⟩
  simp only [tabMap_get, endQuiet]
  split
  · split <;> rfl
  · rfl

theorem dropBarrier_kept {c : Claimant} (h : Kept d0 d) :
    Kept d0 (dropBarrier c d) := by
  unfold dropBarrier
  try dsimp only
  repeat' first | with_reducible exact h | with_reducible refine setBarriers_kept ?_

theorem quitBarrier_kept {c : Claimant} {b : Building} (h : Kept d0 d) : Kept d0 (quitBarrier c b d) :=
  setBarriers_kept h

theorem checkBereft_kept {before : Dev} (h : Kept d0 d) : Kept d0 (checkBereft before d) := pushAll_kept h

theorem tellRobbed_kept {c : Claimant} {before : Dev} {as : Answers} (h : Kept d0 d) :
    Kept d0 (tellRobbed c before as d) := by
  unfold tellRobbed
  split
  · exact h
  · exact push_kept h

theorem leaveBarrier_kept {c : Claimant} {b : Building} (h : Kept d0 d) :
    Kept d0 (leaveBarrier c b d) := by
  unfold leaveBarrier
  try dsimp only
  repeat' first
    | with_reducible exact h | with_reducible refine quitBarrier_kept ?_ | with_reducible refine push_kept ?_
    | split

theorem loseBuilding_kept {b : Building} (h : Kept d0 d) :
    Kept d0 (loseBuilding b d) := by
  unfold loseBuilding
  try dsimp only
  repeat' first
    | with_reducible exact h | with_reducible refine setRow_kept ?_ ?_ | with_reducible refine push_kept ?_
    | with_reducible refine leaveBarrier_kept ?_ | (with_reducible change Kept _ _; split)
  all_goals first | exact id | exact fun q => by simp_all

theorem switchGone_kept {b : Building} (h : Kept d0 d) :
    Kept d0 (switchGone b d) := by
  unfold switchGone
  try dsimp only
  repeat' first
    | with_reducible exact h | with_reducible refine setRow_kept ?_ ?_ | with_reducible refine loseBuilding_kept ?_
  all_goals exact id

theorem tryStage_kept {b : Building} (h : Kept d0 d) :
    Kept d0 (tryStage b d) := by
  unfold tryStage
  try dsimp only
  repeat' first
    | with_reducible exact h | with_reducible refine setRow_kept ?_ ?_
    | with_reducible refine enqueue_kept_eq (by assumption) ?_ | with_reducible refine loseBuilding_kept ?_
    | (with_reducible change Kept _ _; split)
  all_goals exact id

theorem placeStage_kept {b : Building} {m : ZoneMap} {owner : Option Claimant} (h : Kept d0 d) :
    Kept d0 (placeStage b m owner d) := by
  unfold placeStage
  try dsimp only
  repeat' first
    | with_reducible exact h | with_reducible refine setRow_kept ?_ ?_ | with_reducible refine tryStage_kept ?_
  all_goals exact id

theorem grantBuilding_kept {c : Claimant} {prio : ClaimPrio} {b : Building} {m : ZoneMap} (h : Kept d0 d) :
    Kept d0 (grantBuilding c prio b m d) := by
  unfold grantBuilding
  dsimp only
  split
  · next hh =>
    split
    · exact h
    · split
      · exact placeStage_kept (setRow_kept h fun q => by rw [hh] at q; cases q)
      · refine placeStage_kept (setRow_kept (quitBarrier_kept h) fun q => ?_)
        rw [show (quitBarrier _ b d).ta.rows = d.ta.rows from rfl, hh] at q; cases q
  · next hh => exact placeStage_kept (setRow_kept h fun q => by rw [hh] at q; cases q)
  · exact h

theorem claimEach_kept {c : Claimant} {prio : ClaimPrio} {atDeadline : Bool} {zones : ZoneSet} {l : List Building}
    (h : Kept d0 d) : Kept d0 (claimEach c prio atDeadline zones l d).2 := by
  induction l generalizing d with
  | nil => exact h
  | cons x rest ih =>
    unfold claimEach
    try dsimp only
    repeat' first
      | with_reducible exact h | with_reducible refine ih ?_ | with_reducible refine grantBuilding_kept ?_ | split

theorem claimSingle_kept {c : Claimant} {prio : ClaimPrio} {atDeadline : Bool} {zones : ZoneSet} {l : List Building}
    (h : Kept d0 d) : Kept d0 (claimSingle c prio atDeadline zones l d).2 :=
  checkBereft_kept (tellRobbed_kept (claimEach_kept h))

theorem claimSingle_kept_eq {c : Claimant} {prio : ClaimPrio} {atDeadline : Bool} {zones : ZoneSet} {l : List Building} {a0 : Answers} {d' : Dev}
    (he : claimSingle c prio atDeadline zones l d = (a0, d')) (h : Kept d0 d) : Kept d0 d' := by
  have := claimSingle_kept (c := c) (prio := prio) (atDeadline := atDeadline) (zones := zones) (l := l) h
  rwa [he] at this

theorem grantAll_kept {c : Claimant} {prio : ClaimPrio} {l : List (Building × ZoneMap × ClaimAnswer)} (h : Kept d0 d) :
    Kept d0 (grantAll c prio l d) := by
  induction l generalizing d with
  | nil => exact h
  | cons x rest ih =>
    unfold grantAll
    try dsimp only
    repeat' first
      | with_reducible exact h | with_reducible refine ih ?_ | with_reducible refine grantBuilding_kept ?_ | split

theorem claimSet_kept {c : Claimant} {prio : ClaimPrio} {zones : ZoneSet} (h : Kept d0 d) :
    Kept d0 (claimSet c prio zones d).2.2 := by
  unfold claimSet
  dsimp only
  split
  · exact h
  · split
    · exact checkBereft_kept (tellRobbed_kept (grantAll_kept h))
    · exact h

theorem claimSet_kept_eq {c : Claimant} {prio : ClaimPrio} {zones : ZoneSet} {a0 : SetAnswer} {a1 : Answers} {d' : Dev}
    (he : claimSet c prio zones d = (a0, a1, d')) (h : Kept d0 d) : Kept d0 d' := by
  have := claimSet_kept (c := c) (prio := prio) (zones := zones) h
  rwa [he] at this

theorem applyBuildings_kept {c : Claimant} {set : BuildingSet} {src : Source} (h : Kept d0 d) :
    Kept d0 (applyBuildings c set src d) := by
  unfold applyBuildings
  try dsimp only
  repeat' first
    | with_reducible exact h | with_reducible refine setBarriers_kept ?_ | with_reducible refine push_kept ?_
    | split

theorem fireMember_kept {src : Source} {b : Building} (h : Kept d0 d) :
    Kept d0 (fireMember src b d) := by
  unfold fireMember
  try dsimp only
  repeat' first
    | with_reducible exact h | with_reducible refine setRow_kept ?_ ?_ | with_reducible refine requestApply_kept ?_
    | (with_reducible change Kept _ _; split)
  all_goals exact id

theorem loseAll_kept  {l : List Building} (h : Kept d0 d) :
    Kept d0 (loseAll l d) := by
  induction l generalizing d with
  | nil => exact h
  | cons x rest ih =>
    unfold loseAll
    try dsimp only
    repeat' first
      | with_reducible exact h | with_reducible refine ih ?_ | with_reducible refine loseBuilding_kept ?_

theorem fireAll_kept {src : Source} {l : List Building} (h : Kept d0 d) :
    Kept d0 (fireAll src l d) := by
  induction l generalizing d with
  | nil => exact h
  | cons x rest ih =>
    unfold fireAll
    try dsimp only
    repeat' first | with_reducible exact h | with_reducible refine ih ?_ | with_reducible refine fireMember_kept ?_

theorem checkBarrier_kept {c : Claimant} (h : Kept d0 d) :
    Kept d0 (checkBarrier c d) := by
  unfold checkBarrier
  try dsimp only
  repeat' first
    | with_reducible exact h | with_reducible refine push_kept ?_ | with_reducible refine dropBarrier_kept ?_
    | with_reducible refine loseAll_kept ?_ | with_reducible refine fireAll_kept ?_ | split

theorem changeSource_kept {c : Claimant} {set : BuildingSet} {src : Source} (h : Kept d0 d) :
    Kept d0 (changeSource c set src d).2 := by
  refine withTa_kept h ⟨fun _ => rfl, fun b q => ?_⟩
  simp only [Fin.getElem_fin, Vector.getElem_ofFn] at q ⊢
  split
  · exact q
  · exact q

theorem releaseOne_kept {c : Claimant} {b : Building} (h : Kept d0 d) :
    Kept d0 (releaseOne c b d) := by
  unfold releaseOne
  try dsimp only
  repeat' first
    | with_reducible exact h | with_reducible refine setRow_kept ?_ ?_ | with_reducible refine leaveBarrier_kept ?_
    | with_reducible refine placeStage_kept ?_ | (with_reducible change Kept _ _; split)
  all_goals exact id

theorem releaseList_kept {c : Claimant} {l : List Building} (h : Kept d0 d) :
    Kept d0 (releaseList c l d) := by
  induction l generalizing d with
  | nil => exact h
  | cons x rest ih =>
    unfold releaseList
    try dsimp only
    repeat' first | with_reducible exact h | with_reducible refine ih ?_ | with_reducible refine releaseOne_kept ?_

theorem releaseSet_kept {c : Claimant} {set : BuildingSet} (h : Kept d0 d) :
    Kept d0 (releaseSet c set d) := by
  unfold releaseSet
  try dsimp only
  repeat' first | with_reducible exact h | with_reducible refine releaseList_kept ?_

theorem trunkFree_kept {b : Building} (h : Kept d0 d) :
    Kept d0 (trunkFree b d) := by
  unfold trunkFree
  try dsimp only
  repeat' first | with_reducible exact h | with_reducible refine pushAll_kept ?_

theorem takeApplySent_kept {b : Building} (h : Kept d0 d) : Kept d0 (takeApplySent b d) := by
  unfold takeApplySent
  dsimp only
  split
  · exact h
  · split
    · next hh =>
      split
      · refine trunkFree_kept (setRow_kept (setRow_kept h id) fun q => ?_)
        rw [setRow_ta_rows, put_get] at q
        rw [hh] at q; cases q
      · exact setRow_kept h id
    · exact setRow_kept h id

theorem takeStageOutcome_kept {b : Building} {c : Command} {o : CmdOutcome} (h : Kept d0 d) :
    Kept d0 (takeStageOutcome b c o d) := by
  unfold takeStageOutcome
  try dsimp only
  repeat' first
    | with_reducible exact h | with_reducible refine setRow_kept ?_ ?_ | with_reducible refine push_kept ?_
    | with_reducible refine requestApply_kept ?_ | with_reducible refine loseBuilding_kept ?_
    | (with_reducible change Kept _ _; split)
  all_goals exact id

theorem placeMute_kept {b : Building} (h : Kept d0 d) :
    Kept d0 (placeMute b d) := by
  unfold placeMute
  try dsimp only
  repeat' first
    | with_reducible exact h | with_reducible refine setRow_kept ?_ ?_
    | with_reducible refine enqueue_kept_eq (by assumption) ?_ | (with_reducible change Kept _ _; split)
  all_goals exact id

theorem settleRow_kept {b : Building} (h : Kept d0 d) :
    Kept d0 (settleRow b d) := by
  unfold settleRow
  try dsimp only
  repeat' first
    | with_reducible exact h | with_reducible refine setRow_kept ?_ ?_ | with_reducible refine trunkFree_kept ?_
    | (with_reducible change Kept _ _; split)
  all_goals exact id

theorem takeSwitchReport_kept {b : Building} {active : ZoneMap} (h : Kept d0 d) :
    Kept d0 (takeSwitchReport b active d) := by
  unfold takeSwitchReport
  try dsimp only
  repeat' first
    | with_reducible exact h | with_reducible refine setRow_kept ?_ ?_ | with_reducible refine placeMute_kept ?_
    | with_reducible refine settleRow_kept ?_ | (with_reducible change Kept _ _; split)
  all_goals exact id

theorem takeMuteOutcome_kept {b : Building} {c : Command} {o : CmdOutcome} (h : Kept d0 d) :
    Kept d0 (takeMuteOutcome b c o d) := by
  unfold takeMuteOutcome
  try dsimp only
  repeat' first
    | with_reducible exact h | with_reducible refine setRow_kept ?_ ?_ | with_reducible refine settleRow_kept ?_
    | (with_reducible change Kept _ _; split)
  all_goals exact id

theorem takeTaOutcome_kept {b : Building} {c : Command} {o : CmdOutcome} (h : Kept d0 d) :
    Kept d0 (takeTaOutcome b c o d) := by
  unfold takeTaOutcome
  try dsimp only
  repeat' first
    | with_reducible exact h | with_reducible refine takeStageOutcome_kept ?_
    | with_reducible refine takeMuteOutcome_kept ?_ | split

theorem taSecondList_kept  {l : List Building} (h : Kept d0 d) :
    Kept d0 (taSecondList l d) := by
  induction l generalizing d with
  | nil => exact h
  | cons x rest ih =>
    unfold taSecondList
    try dsimp only
    repeat' first
      | with_reducible exact h | with_reducible refine ih ?_ | with_reducible refine tryStage_kept ?_
      | with_reducible refine placeMute_kept ?_ | split

theorem taSecond_kept  (h : Kept d0 d) :
    Kept d0 (taSecond d) := by
  unfold taSecond
  try dsimp only
  repeat' first | with_reducible exact h | with_reducible refine taSecondList_kept ?_

theorem assignGen_kept {g : GenNo} {user : GenUser} {steps : List PStep} (h : Kept d0 d) :
    Kept d0 (assignGen g user steps d) := by
  unfold assignGen
  try dsimp only
  repeat' first
    | with_reducible exact h | with_reducible refine setGen_kept ?_ | with_reducible refine withRs_kept ?_ ?_
  all_goals exact ⟨rfl, id⟩

theorem startGen_kept {e : Env} {g : GenNo} (h : Kept d0 d) :
    Kept d0 (startGen e g d) := by
  unfold startGen
  try dsimp only
  repeat' first | with_reducible exact h | with_reducible refine setGen_kept ?_ | split

theorem modRuns_kept {f : Run → Run} (h : Kept d0 d) :
    Kept d0 (modRuns f d) := by
  unfold modRuns
  try dsimp only
  repeat' first | with_reducible exact h | with_reducible refine withRs_kept ?_ ?_
  all_goals exact ⟨rfl, id⟩

theorem runsForget_kept {b : Building} (h : Kept d0 d) :
    Kept d0 (runsForget b d) := by
  unfold runsForget
  try dsimp only
  repeat' first | with_reducible exact h | with_reducible refine modRuns_kept ?_

theorem stageRun_kept {r : RunIx} {g : GenNo} (h : Kept d0 d) :
    Kept d0 (stageRun r g d) := by
  unfold stageRun
  try dsimp only
  repeat' first
    | with_reducible exact h | with_reducible refine setRun_kept ?_ | with_reducible refine applyBuildings_kept ?_
    | with_reducible refine assignGen_kept ?_ | split

theorem freeGen_kept {g : GenNo} (h : Kept d0 d) : Kept d0 (freeGen g d) := by
  unfold freeGen
  split
  · exact setGen_kept h
  · next r rest hw =>
    refine stageRun_kept (setGen_kept (withRs_kept h ⟨rfl, fun q => ?_⟩))
    rw [hw] at q
    simp only [List.length_cons] at q ⊢
    omega

theorem endRun_kept {e : Env} {r : RunIx} {ending : RunEnding} {m : EndMode} (h : Kept d0 d) :
    Kept d0 (endRun e r ending m d).2 := by
  unfold endRun
  split
  · exact h
  · next run _ =>
    lift_lets
    intro holding settled outcome summary d1 _ d2 d3 d4 _ d5
    have h1 : Kept d0 d1 := by
      dsimp only [d1]
      split
      · exact releaseSet_kept h
      · exact h
    have h3 : Kept d0 d3 := by
      refine setRun_kept (withRs_kept h1 ⟨rfl, fun q => ?_⟩)
      exact (List.length_filter_le _ _).trans q
    have h4 : Kept d0 d4 := by
      dsimp only [d4]
      split
      · split
        · exact freeGen_kept h3
        · exact h3
      · exact h3
    dsimp only [d5]
    split
    · split
      · exact withRs_kept h4 ⟨rfl, id⟩
      · split
        · exact push_kept h4
        · exact h4
    · exact h4

theorem endRun_kept_eq {e : Env} {r : RunIx} {ending : RunEnding} {m : EndMode} {a0 : RingOutcome} {d' : Dev}
    (he : endRun e r ending m d = (a0, d')) (h : Kept d0 d) : Kept d0 d' := by
  have := endRun_kept (e := e) (r := r) (ending := ending) (m := m) h
  rwa [he] at this

theorem finishRun_kept {e : Env} {r : RunIx} {ending : RunEnding} (h : Kept d0 d) :
    Kept d0 (finishRun e r ending d) := by
  unfold finishRun
  try dsimp only
  repeat' first | with_reducible exact h | with_reducible refine endRun_kept ?_

theorem forgetByAnswers_kept {r : RunIx} {as : Answers} (h : Kept d0 d) :
    Kept d0 (forgetByAnswers r as d) := by
  unfold forgetByAnswers
  try dsimp only
  repeat' first | with_reducible exact h | with_reducible refine withRs_kept ?_ ?_
  all_goals exact ⟨rfl, id⟩

theorem claimForRun_kept {r : RunIx} {which : List Building} (h : Kept d0 d) :
    Kept d0 (claimForRun r which d) := by
  unfold claimForRun
  try dsimp only
  repeat' first
    | with_reducible exact h | with_reducible refine claimSingle_kept ?_ | with_reducible refine modRun_kept ?_
    | with_reducible refine forgetByAnswers_kept ?_ | split

theorem moveOn_kept {e : Env} {r : RunIx} (h : Kept d0 d) : Kept d0 (moveOn e r d) := by
  unfold moveOn
  split
  · exact h
  · split
    · exact h
    · split
      · exact h
      · split
        · exact finishRun_kept h
        · split
          · exact stageRun_kept h
          · split
            · exact finishRun_kept h
            · split
              · exact finishRun_kept h
              · next hw =>
                refine setRun_kept (withRs_kept h ⟨rfl, fun _ => ?_⟩)
                simp only [Config.waitListCap, List.length_append, List.length_singleton] at hw ⊢
                omega

theorem reclaim_kept {e : Env} {r : RunIx} {among : BuildingSet} (h : Kept d0 d) :
    Kept d0 (reclaim e r among d) := by
  unfold reclaim
  try dsimp only
  repeat' first
    | with_reducible exact h | with_reducible refine claimForRun_kept ?_ | with_reducible refine moveOn_kept ?_
    | split

theorem createRun_kept {e : Env} {origin : RunOrigin} {pattern : Nat} {zones : ZoneSet} {due : Option Stamp} (h : Kept d0 d) :
    Kept d0 (createRun e origin pattern zones due d).2 := by
  unfold createRun
  try dsimp only
  repeat' first
    | with_reducible exact h | with_reducible refine setRun_kept ?_ | with_reducible refine endRun_kept ?_
    | with_reducible refine claimForRun_kept ?_ | with_reducible refine moveOn_kept ?_
    | (with_reducible change Kept _ _; split) | with_reducible refine withRs_kept ?_ ?_
  all_goals exact ⟨rfl, id⟩

theorem createRun_kept_eq {e : Env} {origin : RunOrigin} {pattern : Nat} {zones : ZoneSet} {due : Option Stamp} {a0 : RingAnswer} {d' : Dev}
    (he : createRun e origin pattern zones due d = (a0, d')) (h : Kept d0 d) : Kept d0 d' := by
  have := createRun_kept (e := e) (origin := origin) (pattern := pattern) (zones := zones) (due := due) h
  rwa [he] at this

theorem runStarted_kept {e : Env} {r : RunIx} {members : BuildingSet} (h : Kept d0 d) :
    Kept d0 (runStarted e r members d) := by
  unfold runStarted
  try dsimp only
  repeat' first
    | with_reducible exact h | with_reducible refine setRun_kept ?_ | with_reducible refine startGen_kept ?_
    | with_reducible refine finishRun_kept ?_ | (with_reducible change Kept _ _; split)
    | with_reducible refine withRs_kept ?_ ?_
  all_goals exact ⟨rfl, id⟩

theorem runNotice_kept {e : Env} {r : RunIx} {b : Building} {reason : DropReason} (h : Kept d0 d) :
    Kept d0 (runNotice e r b reason d) := by
  unfold runNotice
  try dsimp only
  repeat' first
    | with_reducible exact h | with_reducible refine setRun_kept ?_ | with_reducible refine finishRun_kept ?_
    | with_reducible refine moveOn_kept ?_ | split

theorem reclaimEach_kept {e : Env} {b : Building} {l : List RunIx} (h : Kept d0 d) :
    Kept d0 (reclaimEach e b l d) := by
  induction l generalizing d with
  | nil => exact h
  | cons x rest ih =>
    unfold reclaimEach
    try dsimp only
    repeat' first | with_reducible exact h | with_reducible refine ih ?_ | with_reducible refine reclaim_kept ?_

theorem rsTrunkFree_kept {e : Env} {b : Building} (h : Kept d0 d) :
    Kept d0 (rsTrunkFree e b d) := by
  unfold rsTrunkFree
  try dsimp only
  repeat' first
    | with_reducible exact h | with_reducible refine runsForget_kept ?_ | with_reducible refine reclaimEach_kept ?_

theorem endOverdue_kept {e : Env} {l : List RunIx} (h : Kept d0 d) :
    Kept d0 (endOverdue e l d) := by
  induction l generalizing d with
  | nil => exact h
  | cons x rest ih =>
    unfold endOverdue
    try dsimp only
    repeat' first
      | with_reducible exact h | with_reducible refine ih ?_ | with_reducible refine finishRun_kept ?_ | split

theorem rsSecond_kept {e : Env} {bornBefore : Nat} (h : Kept d0 d) :
    Kept d0 (rsSecond e bornBefore d) := by
  unfold rsSecond
  try dsimp only
  repeat' first
    | with_reducible exact h | with_reducible refine pushAll_kept ?_ | with_reducible refine modRuns_kept ?_
    | with_reducible refine endOverdue_kept ?_

theorem runTurn_kept {e : Env} {r : RunIx} {order : Nat} (h : Kept d0 d) :
    Kept d0 (runTurn e r order d) := by
  unfold runTurn
  try dsimp only
  repeat' first | with_reducible exact h | with_reducible refine reclaim_kept ?_ | split

theorem askChime_kept {slot : PageSlot} {pattern : Nat} (h : Kept d0 d) :
    Kept d0 (askChime slot pattern d).2 := by
  unfold askChime
  try dsimp only
  repeat' first | with_reducible exact h | with_reducible refine assignGen_kept ?_ | split

theorem askChime_kept_eq {slot : PageSlot} {pattern : Nat} {a0 : Option GenNo} {d' : Dev}
    (he : askChime slot pattern d = (a0, d')) (h : Kept d0 d) : Kept d0 d' := by
  have := askChime_kept (slot := slot) (pattern := pattern) h
  rwa [he] at this

theorem takeDrillGen_kept {e : Env} {steps : List PStep} (h : Kept d0 d) :
    Kept d0 (takeDrillGen e steps d).2 := by
  unfold takeDrillGen
  try dsimp only
  repeat' first
    | with_reducible exact h | with_reducible refine push_kept ?_ | with_reducible refine assignGen_kept ?_
    | with_reducible refine endRun_kept ?_ | split

theorem takeDrillGen_kept_eq {e : Env} {steps : List PStep} {a0 : GenNo} {d' : Dev}
    (he : takeDrillGen e steps d = (a0, d')) (h : Kept d0 d) : Kept d0 d' := by
  have := takeDrillGen_kept (e := e) (steps := steps) h
  rwa [he] at this

theorem takeId_kept (h : Kept d0 d) : Kept d0 (takeId d).2 := setAm_kept h ⟨rfl, rfl, id, id⟩

theorem takeId_kept_eq {a0 : Nat} {d' : Dev} (he : takeId d = (a0, d')) (h : Kept d0 d) : Kept d0 d' := by
  have := takeId_kept h
  rwa [he] at this

theorem amForget_kept {gone : BuildingSet} (h : Kept d0 d) :
    Kept d0 (amForget gone d) := by
  unfold amForget
  try dsimp only
  repeat' first | with_reducible exact h | with_reducible refine setAm_kept ?_ ?_
  all_goals exact ⟨rfl, rfl, id, id⟩

theorem playerIdle_kept  (h : Kept d0 d) :
    Kept d0 (playerIdle d) := by
  unfold playerIdle
  try dsimp only
  repeat' first
    | with_reducible exact h | with_reducible refine push_kept ?_ | with_reducible refine setAm_kept ?_ ?_
  all_goals exact ⟨rfl, rfl, id, id⟩

theorem sendStop_kept {e : Env} (h : Kept d0 d) :
    Kept d0 (sendStop e d) := by
  unfold sendStop
  try dsimp only
  repeat' first
    | with_reducible exact h | with_reducible refine setAm_kept ?_ ?_ | with_reducible refine playerIdle_kept ?_
    | (with_reducible change Kept _ _; split)
  all_goals exact ⟨rfl, rfl, id, id⟩

theorem playerAfterEnd_kept {e : Env} {m : ReqEnd} (h : Kept d0 d) :
    Kept d0 (playerAfterEnd e m d) := by
  unfold playerAfterEnd
  try dsimp only
  repeat' first
    | with_reducible exact h | with_reducible refine playerIdle_kept ?_ | with_reducible refine sendStop_kept ?_
    | split

theorem addFinished_length (f : FinishedRec) (l : List FinishedRec) : (addFinished f l).length ≤ 8 := by
  simp only [addFinished, Config.finishedCap, List.length_drop, List.length_append, List.length_singleton]
  omega

theorem tellClip_kept {later : Bool} {id : Nat} {o : ReqOutcome} (h : Kept d0 d) : Kept d0 (tellClip later id o d) := by
  unfold tellClip
  split
  · exact setAm_kept h ⟨rfl, rfl, fun q => q, fun q => q⟩
  · exact push_kept h

theorem endRequest_kept {e : Env} {id : Nat} {o : ReqOutcome} {m : ReqEnd} (h : Kept d0 d) :
    Kept d0 (endRequest e id o m d) := by
  unfold endRequest
  split
  · exact h
  · next r _ =>
    lift_lets
    intro held delivered d0' _ d1 d2 _ d3 d4
    have h1 : Kept d0 d1 := by
      dsimp only [d1]
      split
      · exact setAm_kept (releaseSet_kept h) ⟨rfl, rfl, fun q => q, fun q => q⟩
      · exact h
    have h2 : Kept d0 d2 := by
      dsimp only [d2]
      split
      · exact playerAfterEnd_kept h1
      · exact h1
    have h3 : Kept d0 d3 := by
      refine setAm_kept h2 ⟨rfl, rfl, fun q => ?_, fun _ => addFinished_length _ _⟩
      exact (List.length_filter_le _ _).trans q
    have h4 : Kept d0 d4 := by
      dsimp only [d4]
      split
      · exact h3
      · exact latch_kept h3
    split
    · exact tellClip_kept h4
    · exact h4

theorem startClip_kept {e : Env} {r : AnnounceReq} (h : Kept d0 d) :
    Kept d0 (startClip e r d) := by
  unfold startClip
  try dsimp only
  repeat' first | with_reducible exact h | with_reducible refine setAm_kept ?_ ?_
  all_goals exact ⟨rfl, rfl, id, id⟩

/-! A claim touches the buses and the trunks only (Laws/Trunks.lean), so that the announcement queue stays as it was. -/

theorem claimSet_am {c : Claimant} {prio : ClaimPrio} {zones : ZoneSet} {a : SetAnswer} {as : Answers} {d' : Dev}
    (he : claimSet c prio zones d = (a, as, d')) : d'.am = d.am := by
  have h := (claimSet_only (c := c) (prio := prio) (zones := zones) (d := d)).am
  rwa [he] at h

theorem releaseSet_am {c : Claimant} {set : BuildingSet} : (releaseSet c set d).am = d.am := releaseSet_only.am

/-- Of a list, leaving out what has the id of a member makes it shorter. -/
theorem filter_id_shorter {l : List AnnounceReq} {id : Nat} (h : ∃ r ∈ l, r.id = id) :
    (l.filter fun q => !(q.id == id)).length + 1 ≤ l.length := by
  induction l with
  | nil => obtain ⟨r, hr, _⟩ := h; cases hr
  | cons x rest ih =>
    by_cases hx : x.id = id
    · have := List.length_filter_le (fun q : AnnounceReq => !(q.id == id)) rest
      rw [List.filter_cons_of_neg (by simp [hx]), List.length_cons]
      omega
    · obtain ⟨r, hr, he⟩ := h
      have hm : ∃ r ∈ rest, r.id = id := by
        rcases List.mem_cons.1 hr with rfl | hr
        · exact absurd he hx
        · exact ⟨r, hr, he⟩
      have := ih hm
      rw [List.filter_cons_of_pos (by simp [hx]), List.length_cons, List.length_cons]
      omega

theorem reqOf_mem {id : Nat} {r : AnnounceReq} (h : reqOf d id = some r) : ∃ x ∈ d.am.queue, x.id = id := by
  have := List.find?_some h
  exact ⟨r, List.mem_of_find?_eq_some h, by simpa using this⟩

theorem reqOf_id {id : Nat} {r : AnnounceReq} (h : reqOf d id = some r) : r.id = id := by
  have := List.find?_some h
  simpa using this

theorem grantRequest_kept {r : AnnounceReq} {as : Answers} (hr : ∃ x ∈ d.am.queue, x.id = r.id) (h : Kept d0 d) :
    Kept d0 (grantRequest r as d) := by
  unfold grantRequest
  refine applyBuildings_kept (amForget_kept (setAm_kept h ⟨rfl, rfl, fun q => ?_, fun q => q⟩))
  have := filter_id_shorter hr
  simp only [List.length_cons]
  omega

theorem scanList_kept {e : Env} {l : List Nat} (h : Kept d0 d) : Kept d0 (scanList e l d) := by
  induction l generalizing d with
  | nil => exact h
  | cons id rest ih =>
    unfold scanList
    split
    · next r hr =>
      split
      · split
        · exact h
        · exact ih h
      · split
        · next he =>
          refine grantRequest_kept ?_ (claimSet_kept_eq he h)
          rw [claimSet_am he, reqOf_id hr]
          exact reqOf_mem hr
        · next he =>
          split
          · exact claimSet_kept_eq he h
          · exact ih (claimSet_kept_eq he h)
        · next as d1 he =>
          have h2 : Kept d0 (if as.any fun p => p.2 = .failed then d1 else endRequest e id .suppressed ordinaryEnd d1) := by
            split
            · exact claimSet_kept_eq he h
            · exact endRequest_kept (claimSet_kept_eq he h)
          dsimp only
          split
          · exact h2
          · exact ih h2
    · exact ih h
    · exact h

theorem scanQueue_kept {e : Env} (h : Kept d0 d) :
    Kept d0 (scanQueue e d) := by
  unfold scanQueue
  try dsimp only
  repeat' first | with_reducible exact h | with_reducible refine scanList_kept ?_ | split

theorem placeReq_length (r : AnnounceReq) (l : List AnnounceReq) : (placeReq r l).length = l.length + 1 := by
  induction l with
  | nil => rfl
  | cons q rest ih =>
    unfold placeReq
    split
    · simp [ih]
    · rfl

theorem arrive_kept {origin : ReqOrigin} {clip : Nat} {zones : ZoneSet} {prio : ReqPrio} {notBefore : Option Stamp}
    {count : Nat} (h : Kept d0 d) : Kept d0 (arrive origin clip zones prio notBefore count d).2 := by
  unfold arrive
  split
  · exact h
  · split
    · dsimp only
      split
      · exact h
      · exact modReq_kept h
    · split
      · exact h
      · next hc =>
        refine push_kept (setAm_kept (takeId_kept h) ⟨rfl, rfl, fun _ => ?_, fun q => q⟩)
        rw [placeReq_length]
        simp only [Config.announceCap] at hc
        simp only [takeId, setAm_am]
        omega

theorem arrive_kept_eq {origin : ReqOrigin} {clip : Nat} {zones : ZoneSet} {prio : ReqPrio}
    {notBefore : Option Stamp} {count : Nat} {a0 : AmAnswer} {d' : Dev}
    (he : arrive origin clip zones prio notBefore count d = (a0, d')) (h : Kept d0 d) : Kept d0 d' := by
  have := arrive_kept (origin := origin) (clip := clip) (zones := zones) (prio := prio) (notBefore := notBefore)
    (count := count) h
  rwa [he] at this

theorem clipEntry_kept {ref : EntryRef} {clip : Nat} {zones : ZoneSet} {u : Urgency} (h : Kept d0 d) :
    Kept d0 (clipEntry ref clip zones u d).2 := by
  unfold clipEntry
  try dsimp only
  repeat' first | with_reducible exact h | with_reducible refine arrive_kept ?_ | split

theorem clipEntry_kept_eq {ref : EntryRef} {clip : Nat} {zones : ZoneSet} {u : Urgency} {a0 : AmAnswer} {d' : Dev}
    (he : clipEntry ref clip zones u d = (a0, d')) (h : Kept d0 d) : Kept d0 d' := by
  have := clipEntry_kept (ref := ref) (clip := clip) (zones := zones) (u := u) h
  rwa [he] at this

theorem playerAfterEnd_queue {e : Env} {m : ReqEnd} : (playerAfterEnd e m d).am.queue = d.am.queue := by
  have idle (x : Dev) : (playerIdle x).am.queue = x.am.queue := rfl
  have stop (x : Dev) : (sendStop e x).am.queue = x.am.queue := by
    unfold sendStop
    dsimp only
    split
    · rfl
    · rw [idle]; rfl
  unfold playerAfterEnd
  repeat' split
  all_goals first
    | rfl
    | exact idle d
    | exact stop d

theorem tellClip_queue {later : Bool} {id : Nat} {o : ReqOutcome} : (tellClip later id o d).am.queue = d.am.queue := by
  unfold tellClip
  split <;> rfl

/-- A request that ends leaves the queue (R130). -/
theorem endRequest_queue {e : Env} {id : Nat} {o : ReqOutcome} {m : ReqEnd} (hr : ∃ x ∈ d.am.queue, x.id = id) :
    (endRequest e id o m d).am.queue = d.am.queue.filter fun q => !(q.id == id) := by
  unfold endRequest
  split
  · next hn =>
    obtain ⟨x, hx, rfl⟩ := hr
    have := List.find?_eq_none.1 hn x hx
    simp at this
  · next r _ =>
    lift_lets
    intro held delivered d0' _ d1 d2 _ d3 d4
    have h1 : d1.am.queue = d.am.queue := by
      dsimp only [d1]
      split
      · show d0'.am.queue = d.am.queue
        exact congrArg Announcer.queue releaseSet_am
      · rfl
    have h2 : d2.am.queue = d.am.queue := by
      dsimp only [d2]
      split
      · rw [playerAfterEnd_queue, h1]
      · exact h1
    have h3 : d3.am.queue = d.am.queue.filter fun q => !(q.id == id) := by
      simp only [d3, setAm_am, h2]
    have h4 : d4.am.queue = d3.am.queue := by
      dsimp only [d4]
      split <;> rfl
    split
    · rw [tellClip_queue, h4, h3]
    · rw [h4, h3]

theorem placeDrillClip_kept {e : Env} {clip : Nat} {zones : ZoneSet} {count : Nat} (h : Kept d0 d) :
    Kept d0 (placeDrillClip e clip zones count d).2 := by
  unfold placeDrillClip
  split
  · exact h
  · split
    · exact h
    · split
      · exact h
      · lift_lets
        intro d1 d2
        have h1 : Kept d0 d1 := by
          dsimp only [d1]
          split
          · exact endRequest_kept h
          · exact h
        have h2 : Kept d0 d2 := by
          dsimp only [d2]
          split
          · split
            · exact endRequest_kept h1
            · exact h1
          · exact h1
        have room : d1.am.queue.length ≤ 12 → d2.am.queue.length ≤ 11 := by
          intro q
          dsimp only [d2]
          split
          · next hc =>
            split
            · next r hl =>
              have hm : ∃ x ∈ d1.am.queue, x.id = r.id := ⟨r, List.mem_of_getLast? hl, rfl⟩
              rw [endRequest_queue hm]
              have := filter_id_shorter hm
              omega
            · next hn =>
              rw [List.getLast?_eq_none_iff] at hn
              rw [hn]; simp
          · next hc => simp only [Config.announceCap] at hc; omega
        refine push_kept ?_
        refine h1.trans ?_
        have k : Kept d1 (takeId d2).2 := by
          refine takeId_kept ?_
          dsimp only [d2]
          split
          · split
            · exact endRequest_kept (Kept.refl _)
            · exact Kept.refl _
          · exact Kept.refl _
        refine { k with am := ⟨k.am.clips, k.am.cplay, fun q => ?_, k.am.finished⟩ }
        have := room q
        simp only [takeId, setAm_am, placeReq_length]
        omega

theorem placeDrillClip_kept_eq {e : Env} {clip : Nat} {zones : ZoneSet} {count : Nat} {a0 : AmAnswer} {d' : Dev}
    (he : placeDrillClip e clip zones count d = (a0, d')) (h : Kept d0 d) : Kept d0 d' := by
  have := placeDrillClip_kept (e := e) (clip := clip) (zones := zones) (count := count) h
  rwa [he] at this

theorem amStarted_kept {e : Env} {id : Nat} {members : BuildingSet} (h : Kept d0 d) :
    Kept d0 (amStarted e id members d) := by
  unfold amStarted
  try dsimp only
  repeat' first
    | with_reducible exact h | with_reducible refine modReq_kept ?_ | with_reducible refine endRequest_kept ?_
    | with_reducible refine startClip_kept ?_ | split

theorem amNotice_kept {e : Env} {id : Nat} {b : Building} {preempted : Bool} (h : Kept d0 d) :
    Kept d0 (amNotice e id b preempted d) := by
  unfold amNotice
  try dsimp only
  repeat' first
    | with_reducible exact h | with_reducible refine modReq_kept ?_ | with_reducible refine endRequest_kept ?_
    | split

theorem amTrunkFree_kept {e : Env} {b : Building} (h : Kept d0 d) :
    Kept d0 (amTrunkFree e b d) := by
  unfold amTrunkFree
  try dsimp only
  repeat' first
    | with_reducible exact h | with_reducible refine amForget_kept ?_ | with_reducible refine scanQueue_kept ?_

theorem countRequest_kept {e : Env} {ev : SecondEvent} {id : Nat} (h : Kept d0 d) :
    Kept d0 (countRequest e ev id d) := by
  unfold countRequest
  try dsimp only
  repeat' first
    | with_reducible exact h | with_reducible refine modReq_kept ?_ | with_reducible refine endRequest_kept ?_
    | split

theorem countRequests_kept {e : Env} {ev : SecondEvent} {l : List Nat} (h : Kept d0 d) :
    Kept d0 (countRequests e ev l d) := by
  induction l generalizing d with
  | nil => exact h
  | cons x rest ih =>
    unfold countRequests
    try dsimp only
    repeat' first
      | with_reducible exact h | with_reducible refine ih ?_ | with_reducible refine countRequest_kept ?_

theorem amSecond_kept {e : Env} {ev : SecondEvent} {born : Nat} (h : Kept d0 d) :
    Kept d0 (amSecond e ev born d) := by
  unfold amSecond
  try dsimp only
  repeat' first
    | with_reducible exact h | with_reducible refine push_kept ?_ | with_reducible refine countRequests_kept ?_

theorem giveChime_kept {k : PageSlot} (h : Kept d0 d) :
    Kept d0 (giveChime k d) := by
  unfold giveChime
  try dsimp only
  repeat' first
    | with_reducible exact h | with_reducible refine freeGen_kept ?_ | with_reducible refine modPage_kept ?_ ?_
    | (with_reducible change Kept _ _; split)
  all_goals exact fun _ => rfl

theorem startPage_kept {k : PageSlot} {held : BuildingSet} (h : Kept d0 d) :
    Kept d0 (startPage k held d) := by
  unfold startPage
  try dsimp only
  repeat' first
    | with_reducible exact h | with_reducible refine applyBuildings_kept ?_
    | with_reducible refine askChime_kept_eq (by assumption) ?_ | with_reducible refine modPage_kept ?_ ?_
    | (with_reducible change Kept _ _; split)
  all_goals exact fun _ => rfl

theorem forgetByPage_kept {k : PageSlot} {a : SetAnswer} {as : Answers} (h : Kept d0 d) :
    Kept d0 (forgetByPage k a as d) := by
  unfold forgetByPage
  try dsimp only
  repeat' first
    | with_reducible exact h | with_reducible refine modPage_kept ?_ ?_ | (with_reducible change Kept _ _; split)
  all_goals exact fun _ => rfl

theorem beginWait_kept {k : PageSlot} (h : Kept d0 d) :
    Kept d0 (beginWait k d) := by
  unfold beginWait
  try dsimp only
  repeat' first
    | with_reducible exact h | with_reducible refine modPage_kept ?_ ?_ | with_reducible refine withPu_kept ?_ ?_
  all_goals first | exact ⟨rfl, rfl⟩ | exact fun _ => rfl

theorem endWaitLocked_kept {k : PageSlot} (h : Kept d0 d) :
    Kept d0 (endWaitLocked k d) := by
  unfold endWaitLocked
  try dsimp only
  repeat' first | with_reducible exact h | with_reducible refine modPage_kept ?_ ?_
  all_goals exact fun _ => rfl

theorem claimPage_kept {k : PageSlot} (h : Kept d0 d) :
    Kept d0 (claimPage k d) := by
  unfold claimPage
  try dsimp only
  repeat' first
    | with_reducible exact h | with_reducible refine claimSet_kept_eq (by assumption) ?_
    | with_reducible refine startPage_kept ?_ | with_reducible refine forgetByPage_kept ?_
    | with_reducible refine beginWait_kept ?_ | with_reducible refine endWaitLocked_kept ?_ | split

theorem reclaimPage_kept {k : PageSlot} (h : Kept d0 d) :
    Kept d0 (reclaimPage k d) := by
  unfold reclaimPage
  try dsimp only
  repeat' first | with_reducible exact h | with_reducible refine claimPage_kept ?_ | split

theorem closePage_kept {k : PageSlot} (h : Kept d0 d) :
    Kept d0 (closePage k d) := by
  unfold closePage
  try dsimp only
  repeat' first
    | with_reducible exact h | with_reducible refine releaseSet_kept ?_ | with_reducible refine modPage_kept ?_ ?_
    | with_reducible refine giveChime_kept ?_
  all_goals exact fun _ => rfl

theorem losePage_kept {k : PageSlot} (h : Kept d0 d) :
    Kept d0 (losePage k d) := by
  unfold losePage
  try dsimp only
  repeat' first
    | with_reducible exact h | with_reducible refine modPage_kept ?_ ?_ | with_reducible refine giveChime_kept ?_
  all_goals exact fun _ => rfl

theorem pageStarted_kept {e : Env} {k : PageSlot} {members : BuildingSet} (h : Kept d0 d) :
    Kept d0 (pageStarted e k members d) := by
  unfold pageStarted
  try dsimp only
  repeat' first
    | with_reducible exact h | with_reducible refine startGen_kept ?_ | with_reducible refine modPage_kept ?_ ?_
    | with_reducible refine losePage_kept ?_ | (with_reducible change Kept _ _; split)
  all_goals exact fun _ => rfl

theorem chimeOver_kept {k : PageSlot} (h : Kept d0 d) :
    Kept d0 (chimeOver k d) := by
  unfold chimeOver
  try dsimp only
  repeat' first
    | with_reducible exact h | with_reducible refine applyBuildings_kept ?_
    | with_reducible refine changeSource_kept ?_ | with_reducible refine modPage_kept ?_ ?_
    | (with_reducible change Kept _ _; split)
  all_goals exact fun _ => rfl

theorem pageNotice_kept {k : PageSlot} {b : Building} (h : Kept d0 d) :
    Kept d0 (pageNotice k b d) := by
  unfold pageNotice
  try dsimp only
  repeat' first
    | with_reducible exact h | with_reducible refine modPage_kept ?_ ?_ | with_reducible refine losePage_kept ?_
    | (with_reducible change Kept _ _; split)
  all_goals exact fun _ => rfl

theorem pageForget_kept {k : PageSlot} {b : Building} (h : Kept d0 d) :
    Kept d0 (pageForget k b d) := by
  unfold pageForget
  try dsimp only
  repeat' first | with_reducible exact h | with_reducible refine modPage_kept ?_ ?_
  all_goals exact fun _ => rfl

theorem puTrunkFree_kept {b : Building} (h : Kept d0 d) :
    Kept d0 (puTrunkFree b d) := by
  unfold puTrunkFree
  try dsimp only
  repeat' first
    | with_reducible exact h | with_reducible refine pushAll_kept ?_ | with_reducible refine pageForget_kept ?_

theorem countPage_kept {e : Env} {k : PageSlot} (h : Kept d0 d) :
    Kept d0 (countPage e k d) := by
  unfold countPage
  try dsimp only
  repeat' first
    | with_reducible exact h | with_reducible refine modPage_kept ?_ ?_
    | with_reducible refine endWaitLocked_kept ?_ | with_reducible refine closePage_kept ?_
    | (with_reducible change Kept _ _; split)
  all_goals exact fun _ => rfl

theorem puSecond_kept {e : Env} (h : Kept d0 d) :
    Kept d0 (puSecond e d) := by
  unfold puSecond
  try dsimp only
  repeat' first
    | with_reducible exact h | with_reducible refine pushAll_kept ?_ | with_reducible refine countPage_kept ?_

theorem placeLamp_kept {who : Keeper} {b : Building} (h : Kept d0 d) :
    Kept d0 (placeLamp who b d) := by
  unfold placeLamp
  try dsimp only
  repeat' first
    | with_reducible exact h | with_reducible refine enqueue_kept_eq (by assumption) ?_
    | with_reducible refine setLamp_kept ?_ | split

theorem wantLamp_kept {who : Keeper} {w : LampState} {b : Building} (h : Kept d0 d) :
    Kept d0 (wantLamp who w b d) := by
  unfold wantLamp
  try dsimp only
  repeat' first
    | with_reducible exact h | with_reducible refine setLamp_kept ?_ | with_reducible refine placeLamp_kept ?_

theorem wantLamps_kept {who : Keeper} {w : LampState} {l : List Building} (h : Kept d0 d) :
    Kept d0 (wantLamps who w l d) := by
  induction l generalizing d with
  | nil => exact h
  | cons x rest ih =>
    unfold wantLamps
    try dsimp only
    repeat' first | with_reducible exact h | with_reducible refine ih ?_ | with_reducible refine wantLamp_kept ?_

theorem lampShown_kept {who : Keeper} {b : Building} {lamp : LampState} (h : Kept d0 d) :
    Kept d0 (lampShown who b lamp d) := by
  unfold lampShown
  try dsimp only
  repeat' first
    | with_reducible exact h | with_reducible refine setLamp_kept ?_ | with_reducible refine placeLamp_kept ?_
    | split

theorem lampSecondList_kept {who : Keeper} {l : List Building} (h : Kept d0 d) :
    Kept d0 (lampSecondList who l d) := by
  induction l generalizing d with
  | nil => exact h
  | cons x rest ih =>
    unfold lampSecondList
    try dsimp only
    repeat' first
      | with_reducible exact h | with_reducible refine ih ?_ | with_reducible refine placeLamp_kept ?_ | split

theorem lampSecond_kept {who : Keeper} (h : Kept d0 d) :
    Kept d0 (lampSecond who d) := by
  unfold lampSecond
  try dsimp only
  repeat' first | with_reducible exact h | with_reducible refine lampSecondList_kept ?_

theorem lampOutcome_kept {who : Keeper} {b : Building} {c : Command} {o : CmdOutcome} (h : Kept d0 d) :
    Kept d0 (lampOutcome who b c o d) := by
  unfold lampOutcome
  try dsimp only
  repeat' first
    | with_reducible exact h | with_reducible refine setLamp_kept ?_ | with_reducible refine placeLamp_kept ?_
    | split

theorem openRecord_kept {kind : RecordKind} {set : BuildingSet} {start : Option Stamp} (h : Kept d0 d) :
    Kept d0 (openRecord kind set start d).2 := by
  unfold openRecord
  dsimp only
  split
  · split
    · next oldest rest hr =>
      have k (x : Record) (n : Nat) :
          Kept d0 { d with dc := { d.dc with records := rest ++ [x], nextRecord := n } } := by
        refine withDc_kept h ⟨rfl, fun q => ?_⟩
        rw [hr] at q
        simp only [List.length_cons, List.length_append, List.length_nil] at q ⊢
        omega
      dsimp only
      split
      · exact latch_kept (k _ _)
      · exact k _ _
    · refine withDc_kept h ⟨rfl, fun _ => ?_⟩
      simp
  · next hc =>
    refine withDc_kept h ⟨rfl, fun _ => ?_⟩
    simp only [Config.recordCap] at hc
    simp only [List.length_append, List.length_singleton]
    omega

theorem openRecord_kept_eq {kind : RecordKind} {set : BuildingSet} {start : Option Stamp} {a0 : Nat} {d' : Dev}
    (he : openRecord kind set start d = (a0, d')) (h : Kept d0 d) : Kept d0 d' := by
  have := openRecord_kept (kind := kind) (set := set) (start := start) h
  rwa [he] at this

theorem closeRecord_kept {now : Option Stamp} {n : Nat} {o : RecordOutcome} (h : Kept d0 d) :
    Kept d0 (closeRecord now n o d) := by
  unfold closeRecord
  try dsimp only
  repeat' first | with_reducible exact h | with_reducible refine modRecord_kept ?_

theorem writeClear_kept {n : Nat} {b : Building} {t : Stamp} {start : Stamp} (h : Kept d0 d) :
    Kept d0 (writeClear n b t start d) := by
  unfold writeClear
  try dsimp only
  repeat' first | with_reducible exact h | with_reducible refine modRecord_kept ?_

theorem setDrillFasts_kept {e : Env} {v : Bool} {l : List Building} (h : Kept d0 d) :
    Kept d0 (setDrillFasts e v l d) := by
  induction l generalizing d with
  | nil => exact h
  | cons x rest ih =>
    unfold setDrillFasts
    try dsimp only
    repeat' first
      | with_reducible exact h | with_reducible refine ih ?_ | with_reducible refine setDrillFast_kept ?_

theorem endDrill_kept {e : Env} {dr : Drill} {o : RecordOutcome} (h : Kept d0 d) :
    Kept d0 (endDrill e dr o d) := by
  unfold endDrill
  try dsimp only
  repeat' first
    | with_reducible exact h | with_reducible refine latch_kept ?_ | with_reducible refine setDrill_kept ?_
    | with_reducible refine closeRecord_kept ?_

theorem placeScriptClip_kept {e : Env} {clip : Option Nat} {set : BuildingSet} (h : Kept d0 d) :
    Kept d0 (placeScriptClip e clip set d).2 := by
  unfold placeScriptClip
  try dsimp only
  repeat' first | with_reducible exact h | with_reducible refine placeDrillClip_kept_eq (by assumption) ?_ | split

theorem placeScriptClip_kept_eq {e : Env} {clip : Option Nat} {set : BuildingSet} {a0 : Option Nat} {d' : Dev}
    (he : placeScriptClip e clip set d = (a0, d')) (h : Kept d0 d) : Kept d0 d' := by
  have := placeScriptClip_kept (e := e) (clip := clip) (set := set) h
  rwa [he] at this

theorem claimForDrill_kept {which : List Building} (h : Kept d0 d) :
    Kept d0 (claimForDrill which d) := by
  unfold claimForDrill
  try dsimp only
  repeat' first
    | with_reducible exact h | with_reducible refine claimSingle_kept ?_
    | with_reducible refine applyBuildings_kept ?_ | with_reducible refine modDrill_kept ?_ | split

theorem enterEvac_kept {e : Env} (h : Kept d0 d) :
    Kept d0 (enterEvac e d) := by
  unfold enterEvac
  try dsimp only
  repeat' first
    | with_reducible exact h | with_reducible refine takeDrillGen_kept ?_ | with_reducible refine wantLamps_kept ?_
    | with_reducible refine modRecord_kept ?_ | with_reducible refine modDrill_kept ?_
    | with_reducible refine setDrillFasts_kept ?_ | with_reducible refine claimForDrill_kept ?_ | split

theorem beginPreDelay_kept {e : Env} (h : Kept d0 d) :
    Kept d0 (beginPreDelay e d) := by
  unfold beginPreDelay
  try dsimp only
  repeat' first
    | with_reducible exact h | with_reducible refine modDrill_kept ?_ | with_reducible refine enterEvac_kept ?_
    | split

theorem beginPre_kept {e : Env} (h : Kept d0 d) :
    Kept d0 (beginPre e d) := by
  unfold beginPre
  try dsimp only
  repeat' first
    | with_reducible exact h | with_reducible refine modDrill_kept ?_
    | with_reducible refine placeScriptClip_kept_eq (by assumption) ?_ | with_reducible refine beginPreDelay_kept ?_
    | split

theorem enterAllClear_kept {e : Env} {o : RecordOutcome} (h : Kept d0 d) :
    Kept d0 (enterAllClear e o d) := by
  unfold enterAllClear
  try dsimp only
  repeat' first
    | with_reducible exact h | with_reducible refine wantLamps_kept ?_ | with_reducible refine modDrill_kept ?_
    | with_reducible refine setDrillFasts_kept ?_ | with_reducible refine endDrill_kept ?_
    | with_reducible refine placeScriptClip_kept_eq (by assumption) ?_ | split

theorem giveUpTrunks_kept {dr : Drill} (h : Kept d0 d) :
    Kept d0 (giveUpTrunks dr d) := by
  unfold giveUpTrunks
  try dsimp only
  repeat' first
    | with_reducible exact h | with_reducible refine releaseSet_kept ?_ | with_reducible refine freeGen_kept ?_
    | split

theorem checkClearLimit_kept {e : Env} (h : Kept d0 d) :
    Kept d0 (checkClearLimit e d) := by
  unfold checkClearLimit
  try dsimp only
  repeat' first | with_reducible exact h | with_reducible refine enterAllClear_kept ?_ | split

theorem endEvac_kept {e : Env} (h : Kept d0 d) :
    Kept d0 (endEvac e d) := by
  unfold endEvac
  try dsimp only
  repeat' first
    | with_reducible exact h | with_reducible refine modDrill_kept ?_ | with_reducible refine enterAllClear_kept ?_
    | with_reducible refine giveUpTrunks_kept ?_ | with_reducible refine checkClearLimit_kept ?_ | split

theorem startDrill_kept {e : Env} {n : Fin 4} {s : Script} {set : BuildingSet} (h : Kept d0 d) :
    Kept d0 (startDrill e n s set d).2 := by
  unfold startDrill
  try dsimp only
  repeat' first
    | with_reducible exact h | with_reducible refine setDrill_kept ?_ | with_reducible refine openRecord_kept ?_
    | with_reducible refine beginPre_kept ?_

theorem startDrill_kept_eq {e : Env} {n : Fin 4} {s : Script} {set : BuildingSet} {a0 : Nat} {d' : Dev}
    (he : startDrill e n s set d = (a0, d')) (h : Kept d0 d) : Kept d0 d' := by
  have := startDrill_kept (e := e) (n := n) (s := s) (set := set) h
  rwa [he] at this

theorem notStarted_kept {r : NotStarted} (h : Kept d0 d) :
    Kept d0 (notStarted r d) := by
  unfold notStarted
  try dsimp only
  repeat' first
    | with_reducible exact h | with_reducible refine latch_kept ?_ | with_reducible refine setResult_kept ?_

theorem scheduledArrives_kept {e : Env} {p : DrillPlan} (h : Kept d0 d) :
    Kept d0 (scheduledArrives e p d) := by
  unfold scheduledArrives
  try dsimp only
  repeat' first
    | with_reducible exact h | with_reducible refine startDrill_kept ?_ | with_reducible refine setResult_kept ?_
    | with_reducible refine setDrillSlot_kept ?_ | with_reducible refine notStarted_kept ?_ | split

theorem drillSecond_kept {e : Env} (h : Kept d0 d) :
    Kept d0 (drillSecond e d) := by
  unfold drillSecond
  try dsimp only
  repeat' first
    | with_reducible exact h | with_reducible refine modDrill_kept ?_ | with_reducible refine claimForDrill_kept ?_
    | with_reducible refine enterEvac_kept ?_ | with_reducible refine checkClearLimit_kept ?_
    | with_reducible refine endEvac_kept ?_ | split

theorem dcSecond_kept {e : Env} {ev : SecondEvent} (h : Kept d0 d) :
    Kept d0 (dcSecond e ev d) := by
  unfold dcSecond
  try dsimp only
  repeat' first
    | with_reducible exact h | with_reducible refine lampSecond_kept ?_
    | with_reducible refine scheduledArrives_kept ?_ | with_reducible refine drillSecond_kept ?_ | split

theorem dcTrunkFree_kept {b : Building} (h : Kept d0 d) :
    Kept d0 (dcTrunkFree b d) := by
  unfold dcTrunkFree
  try dsimp only
  repeat' first | with_reducible exact h | with_reducible refine claimForDrill_kept ?_ | split

theorem drillStarted_kept {e : Env} {members : BuildingSet} (h : Kept d0 d) :
    Kept d0 (drillStarted e members d) := by
  unfold drillStarted
  try dsimp only
  repeat' first
    | with_reducible exact h | with_reducible refine startGen_kept ?_ | with_reducible refine modDrill_kept ?_
    | split

theorem drillNotice_kept {b : Building} (h : Kept d0 d) :
    Kept d0 (drillNotice b d) := by
  unfold drillNotice
  try dsimp only
  repeat' first | with_reducible exact h | with_reducible refine modDrill_kept ?_ | split

theorem clipOver_kept {e : Env} {id : Nat} (h : Kept d0 d) :
    Kept d0 (clipOver e id d) := by
  unfold clipOver
  try dsimp only
  repeat' first
    | with_reducible exact h | with_reducible refine endDrill_kept ?_ | with_reducible refine beginPreDelay_kept ?_
    | split

theorem drillClear_kept {e : Env} {b : Building} {age : Option Nat} {reply : Option Stamp} (h : Kept d0 d) :
    Kept d0 (drillClear e b age reply d) := by
  unfold drillClear
  try dsimp only
  repeat' first
    | with_reducible exact h | with_reducible refine writeClear_kept ?_
    | with_reducible refine enterAllClear_kept ?_ | split

theorem dcPanel_kept {e : Env} {b : Building} {age : Option Nat} {lamp : LampState} {reply : Option Stamp} (h : Kept d0 d) :
    Kept d0 (dcPanel e b age lamp reply d) := by
  unfold dcPanel
  try dsimp only
  repeat' first
    | with_reducible exact h | with_reducible refine lampShown_kept ?_ | with_reducible refine drillClear_kept ?_

theorem writeMute_kept {n : Nat} {b : Building} {t : Stamp} (h : Kept d0 d) :
    Kept d0 (writeMute n b t d) := by
  unfold writeMute
  try dsimp only
  repeat' first | with_reducible exact h | with_reducible refine modRecord_kept ?_

theorem muteOutcome_kept {b : Building} {o : CmdOutcome} (h : Kept d0 d) :
    Kept d0 (muteOutcome b o d) := by
  unfold muteOutcome
  try dsimp only
  repeat' first | with_reducible exact h | with_reducible refine writeMute_kept ?_ | split

theorem alarmClear_kept {b : Building} {age : Option Nat} {reply : Option Stamp} (h : Kept d0 d) :
    Kept d0 (alarmClear b age reply d) := by
  unfold alarmClear
  try dsimp only
  repeat' first | with_reducible exact h | with_reducible refine writeClear_kept ?_ | split

theorem ahPanel_kept {b : Building} {age : Option Nat} {lamp : LampState} {reply : Option Stamp} (h : Kept d0 d) :
    Kept d0 (ahPanel b age lamp reply d) := by
  unfold ahPanel
  try dsimp only
  repeat' first
    | with_reducible exact h | with_reducible refine lampShown_kept ?_ | with_reducible refine alarmClear_kept ?_

theorem takeAhOutcome_kept {b : Building} {c : Command} {o : CmdOutcome} (h : Kept d0 d) :
    Kept d0 (takeAhOutcome b c o d) := by
  unfold takeAhOutcome
  try dsimp only
  repeat' first
    | with_reducible exact h | with_reducible refine lampOutcome_kept ?_ | with_reducible refine muteOutcome_kept ?_
    | split

end Sys2Proof.Machine
end

