-- ==== Sys2Proof/Laws/KeptEvents.lean ====
section
/-! SUPPORT. LC and TT keep what `Kept` says, and so does the delivery of every message. -/

namespace Sys2Proof.Machine

variable {d0 d : Dev}

/-! ## A counted step keeps the second law of R50 -/

theorem countStep_setup (p : Polarity) (l : Line) : lineSetup (countStep p l) = lineSetup l := rfl

theorem countStep_lawful {p : Polarity} {l : Line} (hs : l.pos.isSome) (hp : l.pol ≠ some p) 
    (h : lineLawful l = true) : lineLawful (countStep p l) = true := by
  cases hpos : l.pos with
  | none => rw [hpos] at hs; cases hs
  | some n =>
    simp only [lineLawful, hpos, Bool.and_eq_true, Bool.or_eq_true, beq_iff_eq, decide_eq_true_eq] at h
    simp only [lineLawful, countStep, hpos, Option.map_some, Bool.and_eq_true, Bool.or_eq_true, beq_iff_eq,
      decide_eq_true_eq]
    obtain ⟨hs, hn, hq⟩ := h
    have par : (n + 1) % l.span % 2 = (n + 1) % 2 := by rcases hs with hs | hs <;> rw [hs] <;> omega
    refine ⟨hs, Nat.mod_lt _ (by omega), ?_⟩
    rw [hq] at hp
    unfold parityOf at hp ⊢
    rw [par]
    rcases Nat.mod_two_eq_zero_or_one n with e | e
    · rw [show (n + 1) % 2 = 1 by omega]
      cases p <;> simp_all
    · rw [show (n + 1) % 2 = 0 by omega]
      cases p <;> simp_all

theorem confirm_setup (p : Polarity) (l : Line) : lineSetup (confirm p l) = lineSetup l := by
  unfold confirm
  split <;> rfl

theorem confirm_lawful {p : Polarity} {l : Line} (h : lineLawful l = true) : lineLawful (confirm p l) = true := by
  unfold confirm
  split
  · next hc => exact countStep_lawful hc.1 hc.2 h
  · exact h

/-! ## The blocks -/

theorem restate_kept {e : Env} {i : LineNo} (h : Kept d0 d) :
    Kept d0 (restate e i d) := by
  unfold restate
  try dsimp only
  repeat' first | with_reducible exact h | with_reducible refine modLine_kept ?_ ?_ ?_
  all_goals first | exact fun _ => rfl | exact fun _ q => q

theorem tryIssue_kept {e : Env} {i : LineNo} (h : Kept d0 d) :
    Kept d0 (tryIssue e i d) := by
  unfold tryIssue
  try dsimp only
  repeat' first
    | with_reducible exact h | with_reducible refine enqueue_kept_eq (by assumption) ?_
    | with_reducible refine modLine_kept ?_ ?_ ?_ | with_reducible refine restate_kept ?_
    | (with_reducible change Kept _ _; split)
  all_goals first | exact fun _ => rfl | exact fun _ q => q

theorem evaluate_kept {e : Env} {i : LineNo} (h : Kept d0 d) :
    Kept d0 (evaluate e i d) := by
  unfold evaluate
  try dsimp only
  repeat' first
    | with_reducible exact h | with_reducible refine restate_kept ?_ | with_reducible refine tryIssue_kept ?_

theorem evaluateAll_kept {e : Env} {l : List LineNo} (h : Kept d0 d) :
    Kept d0 (evaluateAll e l d) := by
  induction l generalizing d with
  | nil => exact h
  | cons x rest ih =>
    unfold evaluateAll
    try dsimp only
    repeat' first | with_reducible exact h | with_reducible refine ih ?_ | with_reducible refine evaluate_kept ?_

theorem endProbe_kept {e : Env} {i : LineNo} {r : ProbeResult} (h : Kept d0 d) :
    Kept d0 (endProbe e i r d) := by
  unfold endProbe
  try dsimp only
  repeat' first
    | with_reducible exact h | with_reducible refine latch_kept ?_ | with_reducible refine modLine_kept ?_ ?_ ?_
    | with_reducible refine evaluate_kept ?_ | (with_reducible change Kept _ _; split)
  all_goals first | exact fun _ => rfl | exact fun _ q => q

theorem loseDriver_kept {e : Env} {i : LineNo} {v : DriverView} (h : Kept d0 d) :
    Kept d0 (loseDriver e i v d) := by
  unfold loseDriver
  try dsimp only
  repeat' first
    | with_reducible exact h | with_reducible refine modLine_kept ?_ ?_ ?_ | with_reducible refine evaluate_kept ?_
    | with_reducible refine endProbe_kept ?_ | (with_reducible change Kept _ _; split)
  all_goals first | exact fun _ => rfl | exact fun _ q => q

theorem tryProbe_kept {e : Env} {i : LineNo} (h : Kept d0 d) :
    Kept d0 (tryProbe e i d) := by
  unfold tryProbe
  try dsimp only
  repeat' first
    | with_reducible exact h | with_reducible refine enqueue_kept_eq (by assumption) ?_
    | with_reducible refine modLine_kept ?_ ?_ ?_ | with_reducible refine loseDriver_kept ?_
    | (with_reducible change Kept _ _; split)
  all_goals first | exact fun _ => rfl | exact fun _ q => q

theorem beginProbe_kept {e : Env} {i : LineNo} {origin : ProbeOrigin} (h : Kept d0 d) :
    Kept d0 (beginProbe e i origin d) := by
  unfold beginProbe
  try dsimp only
  repeat' first
    | with_reducible exact h | with_reducible refine modLine_kept ?_ ?_ ?_ | with_reducible refine evaluate_kept ?_
    | with_reducible refine tryProbe_kept ?_
  all_goals first | exact fun _ => rfl | exact fun _ q => q

theorem impulseOutcome_kept {e : Env} {i : LineNo} {p : Polarity} {o : CmdOutcome} (h : Kept d0 d) :
    Kept d0 (impulseOutcome e i p o d) := by
  unfold impulseOutcome
  try dsimp only
  repeat' first
    | with_reducible exact h | with_reducible refine latch_kept ?_ | with_reducible refine modLine_kept ?_ ?_ ?_
    | with_reducible refine evaluate_kept ?_ | with_reducible refine loseDriver_kept ?_
    | with_reducible refine tryProbe_kept ?_ | (with_reducible change Kept _ _; split)
  all_goals first
    | exact fun _ => rfl | exact fun _ q => q | exact fun _ => confirm_setup _ _ | exact fun _ => confirm_lawful

theorem probeOutcome_kept {e : Env} {i : LineNo} {o : CmdOutcome} (h : Kept d0 d) :
    Kept d0 (probeOutcome e i o d) := by
  unfold probeOutcome
  try dsimp only
  repeat' first
    | with_reducible exact h | with_reducible refine modLine_kept ?_ ?_ ?_ | with_reducible refine endProbe_kept ?_
    | with_reducible refine loseDriver_kept ?_ | (with_reducible change Kept _ _; split)
  all_goals first | exact fun _ => rfl | exact fun _ q => q

theorem takeLcOutcome_kept {e : Env} {b : Building} {i : LineNo} {c : Command} {o : CmdOutcome} (h : Kept d0 d) :
    Kept d0 (takeLcOutcome e b i c o d) := by
  unfold takeLcOutcome
  try dsimp only
  repeat' first
    | with_reducible exact h | with_reducible refine impulseOutcome_kept ?_
    | with_reducible refine probeOutcome_kept ?_ | split

theorem driverReports_kept {e : Env} {b : Building} {addr : Nat} {latched : Polarity} (h : Kept d0 d) :
    Kept d0 (driverReports e b addr latched d) := by
  unfold driverReports
  try dsimp only
  repeat' first
    | with_reducible exact h | with_reducible refine modLine_kept ?_ ?_ ?_ | with_reducible refine evaluate_kept ?_
    | (with_reducible change Kept _ _; split)
  all_goals first | exact fun _ => confirm_setup _ _ | exact fun _ => confirm_lawful

theorem driverGone_kept {e : Env} {b : Building} {addr : Nat} {v : DriverView} (h : Kept d0 d) :
    Kept d0 (driverGone e b addr v d) := by
  unfold driverGone
  try dsimp only
  repeat' first | with_reducible exact h | with_reducible refine loseDriver_kept ?_ | split

theorem probeFound_kept {e : Env} {b : Building} {addr : Nat} {r : ProbeResult} {latched : Option Polarity} (h : Kept d0 d) :
    Kept d0 (probeFound e b addr r latched d) := by
  unfold probeFound
  try dsimp only
  repeat' first
    | with_reducible exact h | with_reducible refine modLine_kept ?_ ?_ ?_ | with_reducible refine endProbe_kept ?_
    | (with_reducible change Kept _ _; split)
  all_goals first | exact fun _ => rfl | exact fun _ q => q

theorem lineSecond_kept {e : Env} {i : LineNo} {ev : SecondEvent} (h : Kept d0 d) :
    Kept d0 (lineSecond e i ev d) := by
  unfold lineSecond
  try dsimp only
  repeat' first
    | with_reducible exact h | with_reducible refine modLine_kept ?_ ?_ ?_ | with_reducible refine tryIssue_kept ?_
    | with_reducible refine evaluate_kept ?_ | with_reducible refine tryProbe_kept ?_
    | with_reducible refine beginProbe_kept ?_ | (with_reducible change Kept _ _; split)
  all_goals first | exact fun _ => rfl | exact fun _ q => q

theorem lcSecond_kept {ev : SecondEvent} (h : Kept d0 d) :
    Kept d0 (lcSecond ev d) := by
  unfold lcSecond
  try dsimp only
  repeat' first | with_reducible exact h | with_reducible refine pushAll_kept ?_

theorem lcStep_kept {e : Env} (h : Kept d0 d) :
    Kept d0 (lcStep e d) := by
  unfold lcStep
  try dsimp only
  repeat' first | with_reducible exact h | with_reducible refine evaluateAll_kept ?_

theorem markEntry_kept {slot : Nat} {m : Mark} (h : Kept d0 d) :
    Kept d0 (markEntry slot m d) := by
  unfold markEntry
  try dsimp only
  repeat' first
    | with_reducible exact h | with_reducible refine latch_kept ?_ | with_reducible refine modToday_kept ?_ ?_
    | (with_reducible change Kept _ _; split)
  all_goals exact fun _ => by split <;> rfl

theorem missWhere_kept {p : Entry → Bool} (h : Kept d0 d) :
    Kept d0 (missWhere p d) := by
  unfold missWhere
  try dsimp only
  repeat' first
    | with_reducible exact h | with_reducible refine latch_kept ?_ | with_reducible refine modToday_kept ?_ ?_
    | (with_reducible change Kept _ _; split)
  all_goals exact fun _ => by split <;> rfl

theorem dropMarks_kept  (h : Kept d0 d) :
    Kept d0 (dropMarks d) := by
  unfold dropMarks
  try dsimp only
  repeat' first | with_reducible exact h | with_reducible refine modToday_kept ?_ ?_
  all_goals exact fun _ => rfl

theorem loadDate_kept {date sec : Nat} (h : Kept d0 d) :
    Kept d0 (loadDate date sec d) := by
  unfold loadDate
  try dsimp only
  repeat' first
    | with_reducible exact h | with_reducible refine setTt_kept ?_ ?_ | with_reducible refine modToday_kept ?_ ?_
    | with_reducible refine dropMarks_kept ?_
  all_goals first | exact fun _ => rfl | exact ⟨fun _ => rfl, rfl, rfl⟩

theorem raiseHighWater_kept {sec : Nat} (h : Kept d0 d) :
    Kept d0 (raiseHighWater sec d) := by
  unfold raiseHighWater
  try dsimp only
  repeat' first | with_reducible exact h | with_reducible refine setTt_kept ?_ ?_
  all_goals exact ⟨fun _ => rfl, rfl, rfl⟩

theorem ringRequest_kept {e : Env} {ref : EntryRef} {pattern : Nat} {zones : ZoneSet} (h : Kept d0 d) :
    Kept d0 (ringRequest e ref pattern zones d).2 := by
  unfold ringRequest
  try dsimp only
  repeat' first
    | with_reducible exact h | with_reducible refine createRun_kept_eq (by assumption) ?_
    | with_reducible refine createRun_kept ?_ | split

theorem ringRequest_kept_eq {e : Env} {ref : EntryRef} {pattern : Nat} {zones : ZoneSet} {a0 : RingAnswer} {d' : Dev}
    (he : ringRequest e ref pattern zones d = (a0, d')) (h : Kept d0 d) : Kept d0 d' := by
  have := ringRequest_kept (e := e) (ref := ref) (pattern := pattern) (zones := zones) h
  rwa [he] at this

theorem passEntry_kept {e : Env} {slot : Nat} {late : Bool} {pass : Stamp} (h : Kept d0 d) :
    Kept d0 (passEntry e slot late pass d) := by
  unfold passEntry
  try dsimp only
  repeat' first
    | with_reducible exact h | with_reducible refine clipEntry_kept_eq (by assumption) ?_
    | with_reducible refine modToday_kept ?_ ?_ | with_reducible refine markEntry_kept ?_
    | with_reducible refine ringRequest_kept_eq (by assumption) ?_ | (with_reducible change Kept _ _; split)
  all_goals exact fun _ => by split <;> rfl

theorem takeRingOutcome_kept {ref : EntryRef} {o : RingOutcome} (h : Kept d0 d) :
    Kept d0 (takeRingOutcome ref o d) := by
  unfold takeRingOutcome
  try dsimp only
  repeat' first | with_reducible exact h | with_reducible refine markEntry_kept ?_ | split

theorem entriesDue_kept {now : Option Stamp} {sec : Nat} (h : Kept d0 d) :
    Kept d0 (entriesDue now sec d) := by
  unfold entriesDue
  try dsimp only
  repeat' first | with_reducible exact h | with_reducible refine pushAll_kept ?_ | split

theorem ttStep_kept {e : Env} {st : TimeStep} (h : Kept d0 d) :
    Kept d0 (ttStep e st d) := by
  unfold ttStep
  try dsimp only
  repeat' first
    | with_reducible exact h | with_reducible refine pushAll_kept ?_ | with_reducible refine missWhere_kept ?_
    | with_reducible refine loadDate_kept ?_ | with_reducible refine raiseHighWater_kept ?_
    | with_reducible refine entriesDue_kept ?_ | split

theorem ttSecond_kept {e : Env} {ev : SecondEvent} (h : Kept d0 d) :
    Kept d0 (ttSecond e ev d) := by
  unfold ttSecond
  try dsimp only
  repeat' first
    | with_reducible exact h | with_reducible refine push_kept ?_ | with_reducible refine loadDate_kept ?_
    | with_reducible refine raiseHighWater_kept ?_ | with_reducible refine ttStep_kept ?_ | split

theorem settleSent_kept  (h : Kept d0 d) :
    Kept d0 (settleSent d) := by
  unfold settleSent
  try dsimp only
  repeat' first | with_reducible exact h | with_reducible refine missWhere_kept ?_

theorem takeOutcome_kept {e : Env} {b : Building} {c : Command} {o : CmdOutcome} (h : Kept d0 d) :
    Kept d0 (takeOutcome e b c o d) := by
  unfold takeOutcome
  try dsimp only
  repeat' first
    | with_reducible exact h | with_reducible refine takeTaOutcome_kept ?_
    | with_reducible refine lampOutcome_kept ?_ | with_reducible refine takeAhOutcome_kept ?_
    | with_reducible refine takeLcOutcome_kept ?_ | split

theorem takePreempted_kept {e : Env} {c : Claimant} {b : Building} (h : Kept d0 d) :
    Kept d0 (takePreempted e c b d) := by
  unfold takePreempted
  try dsimp only
  repeat' first
    | with_reducible exact h | with_reducible refine runNotice_kept ?_ | with_reducible refine amNotice_kept ?_
    | with_reducible refine pageNotice_kept ?_ | split

theorem takeAllPreempted_kept {e : Env} {l : List (Claimant × Building)} (h : Kept d0 d) :
    Kept d0 (takeAllPreempted e l d) := by
  induction l generalizing d with
  | nil => exact h
  | cons p rest ih => exact ih (takePreempted_kept h)

theorem takeLost_kept {e : Env} {c : Claimant} {b : Building} (h : Kept d0 d) :
    Kept d0 (takeLost e c b d) := by
  unfold takeLost
  try dsimp only
  repeat' first
    | with_reducible exact h | with_reducible refine runsForget_kept ?_ | with_reducible refine runNotice_kept ?_
    | with_reducible refine amForget_kept ?_ | with_reducible refine amNotice_kept ?_
    | with_reducible refine pageNotice_kept ?_ | with_reducible refine pageForget_kept ?_
    | with_reducible refine drillNotice_kept ?_ | split

theorem takeStarted_kept {e : Env} {c : Claimant} {members : BuildingSet} (h : Kept d0 d) :
    Kept d0 (takeStarted e c members d) := by
  unfold takeStarted
  try dsimp only
  repeat' first
    | with_reducible exact h | with_reducible refine runStarted_kept ?_ | with_reducible refine amStarted_kept ?_
    | with_reducible refine pageStarted_kept ?_ | with_reducible refine drillStarted_kept ?_ | split

theorem takeTrunkFree_kept {e : Env} {t : FreeTaker} {b : Building} (h : Kept d0 d) :
    Kept d0 (takeTrunkFree e t b d) := by
  unfold takeTrunkFree
  try dsimp only
  repeat' first
    | with_reducible exact h | with_reducible refine rsTrunkFree_kept ?_ | with_reducible refine amTrunkFree_kept ?_
    | with_reducible refine puTrunkFree_kept ?_ | with_reducible refine dcTrunkFree_kept ?_ | split

theorem takeSecond_kept {e : Env} {part : SecondPart} {ev : SecondEvent} (h : Kept d0 d) :
    Kept d0 (takeSecond e part ev d) := by
  unfold takeSecond
  try dsimp only
  repeat' first
    | with_reducible exact h | with_reducible refine endQuiets_kept ?_ | with_reducible refine taSecond_kept ?_
    | with_reducible refine rsSecond_kept ?_ | with_reducible refine amSecond_kept ?_
    | with_reducible refine puSecond_kept ?_ | with_reducible refine lampSecond_kept ?_
    | with_reducible refine dcSecond_kept ?_ | with_reducible refine lcSecond_kept ?_
    | with_reducible refine ttSecond_kept ?_ | split

theorem deliver_kept {e : Env} {m : Msg} (h : Kept d0 d) :
    Kept d0 (deliver e m d) := by
  unfold deliver
  try dsimp only
  repeat' first
    | with_reducible exact h | with_reducible refine startBus_kept ?_ | with_reducible refine switchGone_kept ?_
    | with_reducible refine checkBarrier_kept ?_ | with_reducible refine takeApplySent_kept ?_
    | with_reducible refine takeSwitchReport_kept ?_ | with_reducible refine runTurn_kept ?_
    | with_reducible refine scanQueue_kept ?_ | with_reducible refine reclaimPage_kept ?_
    | with_reducible refine chimeOver_kept ?_ | with_reducible refine clipOver_kept ?_
    | with_reducible refine dcPanel_kept ?_ | with_reducible refine ahPanel_kept ?_
    | with_reducible refine driverReports_kept ?_ | with_reducible refine driverGone_kept ?_
    | with_reducible refine probeFound_kept ?_ | with_reducible refine lineSecond_kept ?_
    | with_reducible refine lcStep_kept ?_ | with_reducible refine passEntry_kept ?_
    | with_reducible refine takeRingOutcome_kept ?_ | with_reducible refine entriesDue_kept ?_
    | with_reducible refine ttStep_kept ?_ | with_reducible refine settleSent_kept ?_
    | with_reducible refine takeOutcome_kept ?_ | with_reducible refine takeAllPreempted_kept ?_
    | with_reducible refine takeLost_kept ?_ | with_reducible refine takeStarted_kept ?_
    | with_reducible refine takeTrunkFree_kept ?_ | with_reducible refine takeSecond_kept ?_ | split

end Sys2Proof.Machine
end

