-- ==== Sys2Proof/Laws/KeptCommands.lean ====
section
/-! SUPPORT. What commands, the supply and the alarm hold make the blocks do keeps what `Kept` says, but for the
functions of Laws/Sound.lean. -/

namespace Sys2Proof.Machine

variable {d0 d : Dev}

theorem tellOutcome_kept {b : Building} {c : Command} {o : CmdOutcome} (h : Kept d0 d) :
    Kept d0 (tellOutcome b c o d) := by
  unfold tellOutcome
  try dsimp only
  repeat' first | with_reducible exact h | with_reducible refine push_kept ?_

theorem tellCarried_kept {e : Env} {b : Building} {c : Command} {o : CmdOutcome} (h : Kept d0 d) :
    Kept d0 (tellCarried e b c o d) := by
  unfold tellCarried
  try dsimp only
  repeat' first
    | with_reducible exact h | with_reducible refine setBus_kept ?_ ?_ | with_reducible refine tellOutcome_kept ?_
    | (with_reducible change Kept _ _; split)
  all_goals exact ⟨rfl, rfl, rfl, id⟩

theorem deliverPoll_kept {e : Env} {b : Building} {r : Station} {f : FieldStation} {probe : Bool} (h : Kept d0 d) :
    Kept d0 (deliverPoll e b r f probe d) := by
  unfold deliverPoll
  try dsimp only
  repeat' first
    | with_reducible exact h | with_reducible refine latch_kept ?_ | with_reducible refine push_kept ?_
    | with_reducible refine pushAll_kept ?_ | split

theorem tellLost_kept {b : Building} {r : Station} {view : DriverView} (h : Kept d0 d) :
    Kept d0 (tellLost b r view d) := by
  unfold tellLost
  try dsimp only
  repeat' first | with_reducible exact h | with_reducible refine push_kept ?_ | split

theorem dropProbe_kept {b : Building} {r : Station} (h : Kept d0 d) :
    Kept d0 (dropProbe b r d) := by
  unfold dropProbe
  try dsimp only
  repeat' first | with_reducible exact h | with_reducible refine push_kept ?_ | split

theorem discardAll_kept {b : Building} {cs : List Command} {reason : DiscardReason} (h : Kept d0 d) :
    Kept d0 (discardAll b cs reason d) := by
  unfold discardAll
  try dsimp only
  repeat' first | with_reducible exact h | with_reducible refine pushAll_kept ?_

theorem exhaust_kept {e : Env} {b : Building} {t : Transaction} {r : Station} (h : Kept d0 d) :
    Kept d0 (exhaust e b t r d) := by
  unfold exhaust
  dsimp only
  have h1 : Kept d0 (setBus b (modStation { d.bus[b] with queue := (d.bus[b]).queue.filter fun c => !(c.addr == t.addr) }
      t.addr fun r =>
        { r with
          state := .offline, unreported := false, pollAt := some (e.clock + tenSeconds), dueAt := none, probeAt := none,
          probeDue := false, lastPoll := match t.what with | .poll _ => some e.clock | .command _ => r.lastPoll }) d) := by
    refine setBus_kept h (BusKept.trans ?_ (modStation_kept fun _ => ⟨rfl, rfl⟩))
    exact ⟨rfl, rfl, rfl, queue_shorter_lawful rfl List.filter_sublist⟩
  refine latch_kept (tellLost_kept (dropProbe_kept (discardAll_kept ?_)))
  split
  · exact tellOutcome_kept h1
  · exact h1

theorem retryOrExhaust_kept {e : Env} {b : Building} {t : Transaction} {r : Station} (h : Kept d0 d) :
    Kept d0 (retryOrExhaust e b t r d) := by
  unfold retryOrExhaust
  dsimp only
  have hs (x : Dev) (hx : Kept d0 x) (f : Station → Station) (hf : ∀ r, (f r).addr = r.addr ∧ (f r).kind = r.kind) :
      Kept d0 (setBus b (modStation x.bus[b] t.addr f) x) := setBus_kept hx (modStation_kept hf)
  split
  · split
    · exact hs d h _ fun _ => ⟨rfl, rfl⟩
    · exact exhaust_kept h
  · split
    · exact setBus_kept (hs d h _ fun _ => ⟨rfl, rfl⟩) ⟨rfl, rfl, rfl, id⟩
    · exact exhaust_kept (hs d h _ fun _ => ⟨rfl, rfl⟩)

theorem attemptFails_kept {e : Env} {b : Building} (h : Kept d0 d) :
    Kept d0 (attemptFails e b d) := by
  unfold attemptFails
  try dsimp only
  repeat' first
    | with_reducible exact h | with_reducible refine setBus_kept ?_ ?_ | with_reducible refine push_kept ?_
    | with_reducible refine tellOutcome_kept ?_ | with_reducible refine tellCarried_kept ?_
    | with_reducible refine retryOrExhaust_kept ?_ | (with_reducible change Kept _ _; split)
  all_goals exact ⟨rfl, rfl, rfl, id⟩

theorem pollFallsDue_keys (e : Env) (r : Station) :
    (pollFallsDue e r).addr = r.addr ∧ (pollFallsDue e r).kind = r.kind := by
  unfold pollFallsDue
  repeat' split
  all_goals exact ⟨rfl, rfl⟩

theorem pollBecomesDue_kept {e : Env} {b : Building} {addr : Nat} (h : Kept d0 d) :
    Kept d0 (pollBecomesDue e b addr d) :=
  push_kept (setBus_kept h (modStation_kept (pollFallsDue_keys e)))

theorem drivingEnds_kept {b : Building} {addr : Nat} (h : Kept d0 d) : Kept d0 (drivingEnds b addr d) :=
  push_kept (setBus_kept h (modStation_kept fun _ => ⟨rfl, rfl⟩))

/-- MUTE and LAMP ON alone make a lawful queue in either mode (R38). -/
theorem alarmPlacements_kept {b : Building} (h : Kept d0 d) : Kept d0 (alarmPlacements b d).2 := by
  unfold alarmPlacements
  dsimp only
  refine push_kept (setBus_kept (withSerial_kept h) ⟨rfl, rfl, rfl, fun _ => ?_⟩)
  unfold queueLawful
  cases hm : (d.bus[b]).alarm
  · simp only [Bool.false_eq_true, if_false, decide_eq_true_eq]
    repeat' split
    all_goals simp
  · simp only [if_true]
    repeat' split
    all_goals simp [isStage]

theorem alarmPlacements_kept_eq {b : Building} {a0 : Option Nat} {d' : Dev} (he : alarmPlacements b d = (a0, d'))
    (h : Kept d0 d) : Kept d0 d' := by
  have := alarmPlacements_kept (b := b) h
  rwa [he] at this

theorem busRestore_kept {e : Env} {b : Building} (h : Kept d0 d) : Kept d0 (busRestore e b d).2 := by
  unfold busRestore
  dsimp only
  have h1 : Kept d0 (push (.busStart b)
      (setBus b { d.bus[b] with rows := (d.bus[b]).rows.map (resetStation e) } d)) :=
    push_kept (setBus_kept h (rows_kept fun _ => ⟨rfl, rfl⟩))
  split
  · exact alarmPlacements_kept h1
  · exact h1

theorem busRestore_kept_eq {e : Env} {b : Building} {a0 : Option Nat} {d' : Dev} (he : busRestore e b d = (a0, d'))
    (h : Kept d0 d) : Kept d0 d' := by
  have := busRestore_kept (e := e) (b := b) h
  rwa [he] at this

theorem busRestartEnds_kept {b : Building} (h : Kept d0 d) :
    Kept d0 (busRestartEnds b d) := by
  unfold busRestartEnds
  try dsimp only
  repeat' first
    | with_reducible exact h | with_reducible refine setBus_kept ?_ ?_ | with_reducible refine push_kept ?_
    | with_reducible refine pushAll_kept ?_
  all_goals exact ⟨rfl, rfl, rfl, id⟩

theorem busAbandon_kept {b : Building} (h : Kept d0 d) :
    Kept d0 (busAbandon b d) := by
  unfold busAbandon
  try dsimp only
  repeat' first | with_reducible exact h | with_reducible refine setBus_kept ?_ ?_
  all_goals exact ⟨rfl, rfl, rfl, id⟩

theorem switchConfigured_kept {b : Building} (h : Kept d0 d) :
    Kept d0 (switchConfigured b d) := by
  unfold switchConfigured
  try dsimp only
  repeat' first | with_reducible exact h | with_reducible refine setRow_kept ?_ ?_
  all_goals exact id

theorem forceTrunks_kept (h : Kept d0 d) : Kept d0 (forceTrunks d) := by
  refine withTa_kept h ⟨fun _ => rfl, fun b q => ?_⟩
  simp only [Fin.getElem_fin, Vector.getElem_ofFn] at q ⊢
  split
  · rfl
  · exact q

theorem taBackup_kept (h : Kept d0 d) : Kept d0 (taBackup d) := by
  refine withTa_kept h ⟨fun _ => rfl, fun b q => ?_⟩
  simp only [tabMap_get, taBackupRow]
  rw [q]

theorem awaitAll_kept (h : Kept d0 d) : Kept d0 (awaitAll d) := by
  refine withTa_kept h ⟨fun _ => rfl, fun b q => ?_⟩
  simp only [Fin.getElem_fin, Vector.getElem_ofFn] at q ⊢
  split <;> exact q

theorem taRestore_kept {restoreTime : Option Stamp} (h : Kept d0 d) : Kept d0 (taRestore restoreTime d) := by
  unfold taRestore
  dsimp only
  refine withTa_kept (awaitAll_kept ?_) ⟨fun _ => rfl, fun b q => ?_⟩
  · split
    · exact endQuiets_kept h
    · exact h
  · simp only [tabMap_get]
    exact q

theorem patternEnds_kept {e : Env} {g : GenNo} (h : Kept d0 d) :
    Kept d0 (patternEnds e g d) := by
  unfold patternEnds
  try dsimp only
  repeat' first
    | with_reducible exact h | with_reducible refine setGen_kept ?_ | with_reducible refine push_kept ?_
    | with_reducible refine freeGen_kept ?_ | with_reducible refine finishRun_kept ?_ | split

theorem endEach_kept {e : Env} {ending : RunEnding} {m : Run → EndMode} {l : List RunIx} (h : Kept d0 d) :
    Kept d0 (endEach e ending m l d) := by
  induction l generalizing d with
  | nil => exact h
  | cons x rest ih =>
    unfold endEach
    try dsimp only
    repeat' first
      | with_reducible exact h | with_reducible refine ih ?_ | with_reducible refine endRun_kept ?_ | split

theorem endAllRuns_kept {e : Env} {ending : RunEnding} {m : Run → EndMode} (h : Kept d0 d) :
    Kept d0 (endAllRuns e ending m d) := by
  unfold endAllRuns
  refine modRuns_kept (endEach_kept (withRs_kept h ⟨rfl, fun _ => ?_⟩))
  simp

theorem rsAlarm_kept {e : Env} (h : Kept d0 d) :
    Kept d0 (rsAlarm e d) := by
  unfold rsAlarm
  try dsimp only
  repeat' first | with_reducible exact h | with_reducible refine endAllRuns_kept ?_

theorem idleGens_kept  (h : Kept d0 d) :
    Kept d0 (idleGens d) := by
  unfold idleGens
  try dsimp only
  repeat' first | with_reducible exact h | with_reducible refine withRs_kept ?_ ?_
  all_goals exact ⟨rfl, id⟩

theorem rsBackup_kept {e : Env} (h : Kept d0 d) :
    Kept d0 (rsBackup e d) := by
  unfold rsBackup
  try dsimp only
  repeat' first
    | with_reducible exact h | with_reducible refine endAllRuns_kept ?_ | with_reducible refine idleGens_kept ?_

theorem rsRestart_kept {e : Env} (h : Kept d0 d) :
    Kept d0 (rsRestart e d) := by
  unfold rsRestart
  try dsimp only
  repeat' first
    | with_reducible exact h | with_reducible refine endAllRuns_kept ?_ | with_reducible refine idleGens_kept ?_

theorem rsRestartEnds_kept  (h : Kept d0 d) :
    Kept d0 (rsRestartEnds d) := by
  unfold rsRestartEnds
  try dsimp only
  repeat' first
    | with_reducible exact h | with_reducible refine pushAll_kept ?_ | with_reducible refine withRs_kept ?_ ?_
  all_goals exact ⟨rfl, id⟩

theorem startWindowEnds_kept {e : Env} (h : Kept d0 d) :
    Kept d0 (startWindowEnds e d) := by
  unfold startWindowEnds
  try dsimp only
  repeat' first
    | with_reducible exact h | with_reducible refine latch_kept ?_ | with_reducible refine endRequest_kept ?_
    | split

theorem endLimitEnds_kept {e : Env} (h : Kept d0 d) :
    Kept d0 (endLimitEnds e d) := by
  unfold endLimitEnds
  try dsimp only
  repeat' first
    | with_reducible exact h | with_reducible refine latch_kept ?_ | with_reducible refine endRequest_kept ?_
    | split

theorem stopWindowEnds_kept  (h : Kept d0 d) :
    Kept d0 (stopWindowEnds d) := by
  unfold stopWindowEnds
  try dsimp only
  repeat' first
    | with_reducible exact h | with_reducible refine latch_kept ?_ | with_reducible refine playerIdle_kept ?_
    | split

theorem withdrawClip_kept {e : Env} {id : Nat} (h : Kept d0 d) :
    Kept d0 (withdrawClip e id d) := by
  unfold withdrawClip
  try dsimp only
  repeat' first | with_reducible exact h | with_reducible refine endRequest_kept ?_

theorem endIds_kept {e : Env} {o : ReqOutcome} {m : ReqEnd} {l : List Nat} (h : Kept d0 d) :
    Kept d0 (endIds e o m l d) := by
  induction l generalizing d with
  | nil => exact h
  | cons x rest ih =>
    unfold endIds
    try dsimp only
    repeat' first | with_reducible exact h | with_reducible refine ih ?_ | with_reducible refine endRequest_kept ?_

theorem endAllRequests_kept {e : Env} {o : ReqOutcome} {m : ReqEnd} (h : Kept d0 d) :
    Kept d0 (endAllRequests e o m d) :=
  setAm_kept (endIds_kept h) ⟨rfl, rfl, id, id⟩

theorem amAlarm_kept {e : Env} (h : Kept d0 d) :
    Kept d0 (amAlarm e d) := by
  unfold amAlarm
  try dsimp only
  repeat' first | with_reducible exact h | with_reducible refine endAllRequests_kept ?_

theorem amBackup_kept {e : Env} (h : Kept d0 d) :
    Kept d0 (amBackup e d) := by
  unfold amBackup
  try dsimp only
  repeat' first
    | with_reducible exact h | with_reducible refine setAm_kept ?_ ?_ | with_reducible refine endAllRequests_kept ?_
  all_goals exact ⟨rfl, rfl, id, id⟩

theorem amRestore_kept {e : Env} (h : Kept d0 d) :
    Kept d0 (amRestore e d) := by
  unfold amRestore
  try dsimp only
  repeat' first
    | with_reducible exact h | with_reducible refine playerIdle_kept ?_ | with_reducible refine sendStop_kept ?_
    | split

theorem amRestart_kept {e : Env} (h : Kept d0 d) :
    Kept d0 (amRestart e d) := by
  unfold amRestart
  try dsimp only
  repeat' first | with_reducible exact h | with_reducible refine endAllRequests_kept ?_

theorem amRestartEnds_kept {e : Env} (h : Kept d0 d) :
    Kept d0 (amRestartEnds e d) := by
  refine pushAll_kept (setAm_kept h ?_)
  unfold playerAfterRestart
  split <;> exact ⟨rfl, rfl, id, id⟩

theorem openRequest_kept {k : PageSlot} (h : Kept d0 d) :
    Kept d0 (openRequest k d) := by
  unfold openRequest
  try dsimp only
  repeat' first
    | with_reducible exact h | with_reducible refine modPage_kept ?_ ?_ | with_reducible refine beginWait_kept ?_
    | with_reducible refine claimPage_kept ?_ | (with_reducible change Kept _ _; split)
  all_goals exact fun _ => rfl

theorem pttActs_kept {k : PageSlot} {asserted : Bool} (h : Kept d0 d) :
    Kept d0 (pttActs k asserted d) := by
  unfold pttActs
  try dsimp only
  repeat' first
    | with_reducible exact h | with_reducible refine modPage_kept ?_ ?_ | with_reducible refine openRequest_kept ?_
    | with_reducible refine closePage_kept ?_ | (with_reducible change Kept _ _; split)
  all_goals exact fun _ => rfl

theorem pttTaken_kept {k : PageSlot} (h : Kept d0 d) :
    Kept d0 (pttTaken k d) := by
  unfold pttTaken
  try dsimp only
  repeat' first
    | with_reducible exact h | with_reducible refine modPage_kept ?_ ?_ | with_reducible refine pttActs_kept ?_
    | (with_reducible change Kept _ _; split)
  all_goals exact fun _ => rfl

theorem hostClose_kept {k : PageSlot} (h : Kept d0 d) :
    Kept d0 (hostClose k d) := by
  unfold hostClose
  try dsimp only
  repeat' first
    | with_reducible exact h | with_reducible refine modPage_kept ?_ ?_
    | with_reducible refine endWaitLocked_kept ?_ | with_reducible refine closePage_kept ?_
    | (with_reducible change Kept _ _; split)
  all_goals exact fun _ => rfl

theorem pageAlarm_kept {k : PageSlot} (h : Kept d0 d) :
    Kept d0 (pageAlarm k d) := by
  unfold pageAlarm
  try dsimp only
  repeat' first
    | with_reducible exact h | with_reducible refine modPage_kept ?_ ?_
    | with_reducible refine endWaitLocked_kept ?_ | with_reducible refine closePage_kept ?_
    | (with_reducible change Kept _ _; split)
  all_goals exact fun _ => rfl

theorem puAlarm_kept  (h : Kept d0 d) :
    Kept d0 (puAlarm d) := by
  unfold puAlarm
  try dsimp only
  repeat' first | with_reducible exact h | with_reducible refine pageAlarm_kept ?_

theorem puBackup_kept  (h : Kept d0 d) :
    Kept d0 (puBackup d) := by
  unfold puBackup
  try dsimp only
  repeat' first | with_reducible exact h | with_reducible refine modPage_kept ?_ ?_
  all_goals exact fun _ => rfl

theorem puStart_kept  (h : Kept d0 d) :
    Kept d0 (puStart d) := by
  unfold puStart
  try dsimp only
  repeat' first | with_reducible exact h | with_reducible refine modPage_kept ?_ ?_
  all_goals exact fun _ => rfl

theorem mapLamps_kept {who : Keeper} {f : LampKeep → LampKeep} (h : Kept d0 d) : Kept d0 (mapLamps who f d) := by
  cases who
  · exact withDc_kept h ⟨rfl, id⟩
  · exact h.trans { Kept.refl d with ah := ⟨rfl, rfl, rfl⟩ }

theorem clearOutstanding_kept {who : Keeper} (h : Kept d0 d) :
    Kept d0 (clearOutstanding who d) := by
  unfold clearOutstanding
  try dsimp only
  repeat' first | with_reducible exact h | with_reducible refine mapLamps_kept ?_

theorem noLamps_kept {who : Keeper} (h : Kept d0 d) :
    Kept d0 (noLamps who d) := by
  unfold noLamps
  try dsimp only
  repeat' first | with_reducible exact h | with_reducible refine mapLamps_kept ?_

theorem placeOffs_kept {who : Keeper} {l : List Building} (h : Kept d0 d) :
    Kept d0 (placeOffs who l d) := by
  induction l generalizing d with
  | nil => exact h
  | cons x rest ih =>
    unfold placeOffs
    try dsimp only
    repeat' first
      | with_reducible exact h | with_reducible refine ih ?_ | with_reducible refine placeLamp_kept ?_ | split

theorem cancelDrill_kept {e : Env} {dr : Drill} (h : Kept d0 d) :
    Kept d0 (cancelDrill e dr d) := by
  unfold cancelDrill
  try dsimp only
  repeat' first
    | with_reducible exact h | with_reducible refine withdrawClip_kept ?_ | with_reducible refine wantLamps_kept ?_
    | with_reducible refine setDrillFasts_kept ?_ | with_reducible refine endDrill_kept ?_
    | with_reducible refine giveUpTrunks_kept ?_ | split

theorem dcAlarm_kept {e : Env} (h : Kept d0 d) :
    Kept d0 (dcAlarm e d) := by
  unfold dcAlarm
  try dsimp only
  repeat' first
    | with_reducible exact h | with_reducible refine noLamps_kept ?_ | with_reducible refine setDrillFasts_kept ?_
    | with_reducible refine endDrill_kept ?_ | with_reducible refine giveUpTrunks_kept ?_ | split

theorem keepOffs_kept {set : BuildingSet} (h : Kept d0 d) :
    Kept d0 (keepOffs set d) := by
  unfold keepOffs
  try dsimp only
  repeat' first | with_reducible exact h | with_reducible refine withDc_kept ?_ ?_
  all_goals exact ⟨rfl, id⟩

theorem dcCutOff_kept {e : Env} {o : RecordOutcome} (h : Kept d0 d) :
    Kept d0 (dcCutOff e o d) := by
  unfold dcCutOff
  try dsimp only
  repeat' first
    | with_reducible exact h | with_reducible refine clearOutstanding_kept ?_
    | with_reducible refine endDrill_kept ?_ | with_reducible refine keepOffs_kept ?_ | split

theorem dcLampsAfter_kept  (h : Kept d0 d) :
    Kept d0 (dcLampsAfter d) := by
  unfold dcLampsAfter
  try dsimp only
  repeat' first
    | with_reducible exact h | with_reducible refine noLamps_kept ?_ | with_reducible refine placeOffs_kept ?_
    | split

theorem dcRestore_kept {e : Env} {restoreTime : Option Stamp} (h : Kept d0 d) :
    Kept d0 (dcRestore e restoreTime d) := by
  unfold dcRestore
  try dsimp only
  repeat' first
    | with_reducible exact h | with_reducible refine setDrillFasts_kept ?_
    | with_reducible refine setDrillSlot_kept ?_ | with_reducible refine notStarted_kept ?_
    | with_reducible refine dcLampsAfter_kept ?_ | split

theorem timeFire_kept {e : Env} (h : Kept d0 d) :
    Kept d0 (timeFire e d) := by
  unfold timeFire
  try dsimp only
  repeat' first | with_reducible exact h | with_reducible refine setAh_kept ?_ ?_
  all_goals exact ⟨rfl, rfl, rfl⟩

theorem modAlarmRecord_kept {f : Record → Record} (h : Kept d0 d) :
    Kept d0 (modAlarmRecord f d) := by
  unfold modAlarmRecord
  try dsimp only
  repeat' first | with_reducible exact h | with_reducible refine modRecord_kept ?_ | split

theorem ahBackup_kept  (h : Kept d0 d) :
    Kept d0 (ahBackup d) := by
  unfold ahBackup
  try dsimp only
  repeat' first
    | with_reducible exact h | with_reducible refine clearOutstanding_kept ?_
    | with_reducible refine setAh_kept ?_ ?_
  all_goals exact ⟨rfl, rfl, rfl⟩

theorem markLamps_kept {l : List (Building × Option Nat)} (h : Kept d0 d) : Kept d0 (markLamps l d) := by
  induction l generalizing d with
  | nil => exact h
  | cons x rest ih =>
    obtain ⟨b, o⟩ := x
    cases o with
    | none => exact ih h
    | some n => exact ih (setAhLamp_kept h)

theorem ahRestore_kept {e : Env} {placed : List (Building × Option Nat)} (h : Kept d0 d) :
    Kept d0 (ahRestore e placed d) := by
  unfold ahRestore
  try dsimp only
  repeat' first
    | with_reducible exact h | with_reducible refine clearOutstanding_kept ?_
    | with_reducible refine placeOffs_kept ?_ | with_reducible refine timeFire_kept ?_
    | with_reducible refine markLamps_kept ?_ | split

theorem ahRestart_kept  (h : Kept d0 d) :
    Kept d0 (ahRestart d) := by
  unfold ahRestart
  try dsimp only
  repeat' first | with_reducible exact h | with_reducible refine setAh_kept ?_ ?_
  all_goals exact ⟨rfl, rfl, rfl⟩

theorem mapLines_kept {f : Line → Line} (h : Kept d0 d) (hs : ∀ l, lineSetup (f l) = lineSetup l)
    (hl : ∀ l, lineLawful l = true → lineLawful (f l) = true) : Kept d0 (mapLines f d) := by
  unfold mapLines
  refine h.trans { Kept.refl d with lines := fun i => ?_ }
  dsimp only
  rw [tabMap_get]
  generalize d.lines[i] = o
  cases o with
  | none => exact .refl _
  | some l => exact ⟨congrArg some (hs l), hl l⟩

theorem lcBackup_kept  (h : Kept d0 d) :
    Kept d0 (lcBackup d) := by
  unfold lcBackup
  try dsimp only
  repeat' first | with_reducible exact h | with_reducible refine mapLines_kept ?_ ?_ ?_
  all_goals first | exact fun _ => rfl | exact fun _ q => q

theorem lcRestore_kept {e : Env} (h : Kept d0 d) :
    Kept d0 (lcRestore e d) := by
  unfold lcRestore
  try dsimp only
  repeat' first
    | with_reducible exact h | with_reducible refine latch_kept ?_ | with_reducible refine evaluateAll_kept ?_
    | with_reducible refine mapLines_kept ?_ ?_ ?_ | (with_reducible change Kept _ _; split)
  all_goals first | exact fun _ => rfl | exact fun _ q => q

theorem lcRestart_kept  (h : Kept d0 d) :
    Kept d0 (lcRestart d) := by
  unfold lcRestart
  try dsimp only
  repeat' first | with_reducible exact h | with_reducible refine mapLines_kept ?_ ?_ ?_
  all_goals first | exact fun _ => rfl | exact fun _ q => q

theorem lcRestartEnds_kept {e : Env} (h : Kept d0 d) :
    Kept d0 (lcRestartEnds e d) := by
  unfold lcRestartEnds
  try dsimp only
  repeat' first | with_reducible exact h | with_reducible refine evaluateAll_kept ?_

theorem reResolve_kept  (h : Kept d0 d) :
    Kept d0 (reResolve d) := by
  unfold reResolve
  try dsimp only
  repeat' first
    | with_reducible exact h | with_reducible refine latch_kept ?_ | with_reducible refine setTt_kept ?_ ?_
    | with_reducible refine modToday_kept ?_ ?_ | with_reducible refine dropMarks_kept ?_
    | (with_reducible change Kept _ _; split)
  all_goals first | exact fun _ => rfl | exact ⟨fun _ => rfl, rfl, rfl⟩

theorem ttCutOff_kept  (h : Kept d0 d) :
    Kept d0 (ttCutOff d) := by
  unfold ttCutOff
  try dsimp only
  repeat' first
    | with_reducible exact h | with_reducible refine settleSent_kept ?_ | split
    | with_reducible refine withDrawn_kept ?_

theorem ttRestore_kept {ev : RestoreEvent} (h : Kept d0 d) :
    Kept d0 (ttRestore ev d) := by
  unfold ttRestore
  try dsimp only
  repeat' first
    | with_reducible exact h | with_reducible refine missWhere_kept ?_ | with_reducible refine loadDate_kept ?_
    | with_reducible refine raiseHighWater_kept ?_ | split

/-- The delivery of messages, one after another, keeps what each delivery keeps. -/
theorem drain_kept {e : Env} {n : Nat} {l : List Msg} (h : Kept d0 d) : Kept d0 (drain e n l d) := by
  induction n generalizing l d with
  | zero => exact withAgenda_kept h
  | succ n ih =>
    cases l with
    | nil => exact h
    | cons m rest => exact ih (withAgenda_kept (deliver_kept (withAgenda_kept h)))

/-- Everything that the blocks do among themselves keeps what `Kept` says. -/
theorem settle_kept {e : Env} (h : Kept d0 d) : Kept d0 (settle e d) := drain_kept (withAgenda_kept h)

theorem pushSecond_kept {ev : SecondEvent} (h : Kept d0 d) :
    Kept d0 (pushSecond ev d) := by
  unfold pushSecond
  try dsimp only
  repeat' first | with_reducible exact h | with_reducible refine pushAll_kept ?_

theorem restoreBuses_kept {e : Env} {l : List Building} (h : Kept d0 d) : Kept d0 (restoreBuses e l d).2 := by
  induction l generalizing d with
  | nil => exact h
  | cons b rest ih =>
    unfold restoreBuses
    exact ih (busRestore_kept h)

/-- RESTORE keeps everything but what the stations lose with their power. -/
theorem devRestore_kept {ev : RestoreEvent} {e : Env} : Kept (powerUp d) (devRestore ev e d) := by
  have h1 := restoreBuses_kept (e := e) (l := buildings) (.refl (powerUp d))
  unfold devRestore
  generalize restoreBuses e buildings (powerUp d) = p at h1 ⊢
  obtain ⟨placed, d1⟩ := p
  have k := ahRestore_kept (e := e) (placed := placed) (dcRestore_kept (e := e) (restoreTime := ev.now) (puStart_kept
    (amRestore_kept (e := e) (taRestore_kept (restoreTime := ev.now) (ttRestore_kept (ev := ev)
      (lcRestore_kept (e := e) h1))))))
  refine latch_kept ?_
  by_cases hs : ev.shift.isSome
  · rw [if_pos hs]; exact latch_kept k
  · rw [if_neg hs]; exact k

end Sys2Proof.Machine
end

