-- ==== Sys2Proof/Laws/PerInstr.lean ====
section
/-! SUPPORT. The frame of a request (R173, R182), command by command: the body of every request fits the length byte
of its frame, which counts the kind, the tag and at most 250 bytes of body. -/

namespace Sys2Proof.Laws.RequestFrame

open Sys2Proof.Machine

/-- A command that is a host request has a body of at most 250 bytes. -/
def Statement (i : Instr) : Prop := ∀ tag r, asRequest i = some (tag, r) → (encodeBody r).length ≤ 250

@[simp] theorem num_length (n : Nat) : (num n).length = 2 := rfl
@[simp] theorem signed_length (z : Int) : (signed z).length = 2 := rfl
@[simp] theorem code_length (n : Nat) : (code n).length = 1 := rfl
@[simp] theorem timeOfDay_length (n : Nat) : (timeOfDay n).length = 3 := rfl
@[simp] theorem stamp_length (t : Stamp) : (stamp t).length = 5 := rfl
@[simp] theorem zoneBytes_length (z : ZoneSet) : (zoneBytes z).length = 8 := by simp [zoneBytes, buildings]
@[simp] theorem condBytes_length (c : CondSet) : (condBytes c).length = 2 := rfl

theorem optional_length {α : Type} (f : α → List Byte) (n : Nat) (hf : ∀ x, (f x).length ≤ n) (o : Option α) :
    (Machine.optional f o).length ≤ n + 1 := by
  cases o with
  | none => simp [Machine.optional]
  | some x => simpa [Machine.optional] using hf x

theorem placeBytes_length (p : StepPlace) : (placeBytes p).length ≤ 5 := by
  cases p <;> simp [placeBytes, num, code]

theorem kindBytes_length (k : EntryArg) : (kindBytes k).length ≤ 4 := by
  cases k <;> simp [kindBytes, num, code]

/-- A list of `n` members of at most `k` bytes each. -/
theorem flatMap_length {α : Type} {n k : Nat} (f : α → List Byte) (hf : ∀ x, (f x).length ≤ k) (v : Vector α n) :
    (v.toList.flatMap f).length ≤ n * k := by
  have general (l : List α) : (l.flatMap f).length ≤ l.length * k := by
    induction l with
    | nil => simp
    | cons x rest ih =>
      rw [List.flatMap_cons, List.length_append, List.length_cons, Nat.succ_mul]
      have := hf x
      omega
  have := general v.toList
  rwa [Vector.length_toList] at this

/-- One command's request, from the one equation that `asRequest` gives for it. -/
theorem of_request {i : Instr} {t : Nat} {q : Request} (h : asRequest i = some (t, q))
    (hq : (encodeBody q).length ≤ 250) : Statement i := by
  intro tag r hr
  rw [h] at hr
  cases hr
  exact hq

/-- A command that is no request. -/
theorem of_event {i : Instr} (h : asRequest i = none) : Statement i := by
  intro tag r hr
  rw [h] at hr
  cases hr

theorem timeSet (tag day sec : Nat) : Statement (.timeSet tag day sec) := of_request rfl (Nat.le_of_ble_eq_true rfl)
theorem timeGet (tag : Nat) : Statement (.timeGet tag) := of_request rfl (Nat.le_of_ble_eq_true rfl)
theorem trimSet (tag : Nat) (trim : Int) : Statement (.trimSet tag trim) := of_request rfl (Nat.le_of_ble_eq_true rfl)
theorem shiftPlan (tag day stated : Nat) (shift : Int) : Statement (.shiftPlan tag day stated shift) := of_request rfl (Nat.le_of_ble_eq_true rfl)
theorem shiftCancel (tag : Nat) : Statement (.shiftCancel tag) := of_request rfl (Nat.le_of_ble_eq_true rfl)
theorem stampGet (tag : Nat) : Statement (.stampGet tag) := of_request rfl (Nat.le_of_ble_eq_true rfl)
theorem stampClear (tag : Nat) : Statement (.stampClear tag) := of_request rfl (Nat.le_of_ble_eq_true rfl)
theorem stationConfig (tag building address kind : Nat) :
    Statement (.stationConfig tag building address kind) := of_request rfl (Nat.le_of_ble_eq_true rfl)
theorem stationStatus (tag building : Nat) : Statement (.stationStatus tag building) := of_request rfl (Nat.le_of_ble_eq_true rfl)
theorem lineConfig (tag line building address : Nat) (span hold catchUp width : Option Nat) :
    Statement (.lineConfig tag line building address span hold catchUp width) := of_request rfl (
  by
    have o (x : Option Nat) := optional_length num 2 (fun n => (num_length n).le) x
    have := o span; have := o hold; have := o catchUp; have := o width
    simp only [encodeBody, List.length_append, num_length]
    omega)
theorem dialSet (tag line hh mm : Nat) : Statement (.dialSet tag line hh mm) := of_request rfl (Nat.le_of_ble_eq_true rfl)
theorem lineEnable (tag line : Nat) : Statement (.lineEnable tag line) := of_request rfl (Nat.le_of_ble_eq_true rfl)
theorem lineDisable (tag line : Nat) : Statement (.lineDisable tag line) := of_request rfl (Nat.le_of_ble_eq_true rfl)
theorem lineProbe (tag line : Nat) : Statement (.lineProbe tag line) := of_request rfl (Nat.le_of_ble_eq_true rfl)
theorem lineStatus (tag line : Nat) : Statement (.lineStatus tag line) := of_request rfl (Nat.le_of_ble_eq_true rfl)
theorem planClear (tag plan : Nat) : Statement (.planClear tag plan) := of_request rfl (Nat.le_of_ble_eq_true rfl)
theorem entryAdd (tag plan time : Nat) (kind : EntryArg) (zones : ZoneSet) :
    Statement (.entryAdd tag plan time kind zones) := of_request rfl (
  by
    have := kindBytes_length kind
    simp only [encodeBody, List.length_append, num_length, timeOfDay_length, zoneBytes_length]
    omega)
theorem entryRemove (tag plan index : Nat) : Statement (.entryRemove tag plan index) := of_request rfl (Nat.le_of_ble_eq_true rfl)
theorem entryList (tag plan start : Nat) : Statement (.entryList tag plan start) := of_request rfl (Nat.le_of_ble_eq_true rfl)
theorem weekSet (tag : Nat) (plans : Vector Nat 7) : Statement (.weekSet tag plans) := of_request rfl (
  by
    have := flatMap_length num (fun n => (num_length n).le) plans
    simp only [encodeBody]
    omega)
theorem exceptionAdd (tag first last plan : Nat) : Statement (.exceptionAdd tag first last plan) := of_request rfl (Nat.le_of_ble_eq_true rfl)
theorem exceptionRemove (tag day : Nat) : Statement (.exceptionRemove tag day) := of_request rfl (Nat.le_of_ble_eq_true rfl)
theorem exceptionList (tag start : Nat) : Statement (.exceptionList tag start) := of_request rfl (Nat.le_of_ble_eq_true rfl)
theorem dayQuery (tag day : Nat) : Statement (.dayQuery tag day) := of_request rfl (Nat.le_of_ble_eq_true rfl)
theorem zoneSet (tag : Nat) (zones : ZoneSet) (value : Nat) : Statement (.zoneSet tag zones value) := of_request rfl (Nat.le_of_ble_eq_true rfl)
theorem quietSet (tag : Nat) (zones : ZoneSet) (until_ : Stamp) : Statement (.quietSet tag zones until_) := of_request rfl (Nat.le_of_ble_eq_true rfl)
theorem quietClear (tag : Nat) (zones : ZoneSet) : Statement (.quietClear tag zones) := of_request rfl (Nat.le_of_ble_eq_true rfl)
theorem trunkStatus (tag building : Nat) : Statement (.trunkStatus tag building) := of_request rfl (Nat.le_of_ble_eq_true rfl)
theorem patternSet (tag pattern : Nat) (places : Vector StepPlace 8) :
    Statement (.patternSet tag pattern places) := of_request rfl (
  by
    have := flatMap_length placeBytes placeBytes_length places
    simp only [encodeBody, List.length_append, num_length]
    omega)
theorem patternGet (tag pattern : Nat) : Statement (.patternGet tag pattern) := of_request rfl (Nat.le_of_ble_eq_true rfl)
theorem ringNow (tag pattern : Nat) (zones : ZoneSet) : Statement (.ringNow tag pattern zones) := of_request rfl (Nat.le_of_ble_eq_true rfl)
theorem runStop (tag run : Nat) : Statement (.runStop tag run) := of_request rfl (Nat.le_of_ble_eq_true rfl)
theorem runList (tag first : Nat) : Statement (.runList tag first) := of_request rfl (Nat.le_of_ble_eq_true rfl)
theorem clipDefine (tag clip length : Nat) : Statement (.clipDefine tag clip length) := of_request rfl (Nat.le_of_ble_eq_true rfl)
theorem announce (tag clip : Nat) (zones : ZoneSet) (priority : Nat) (notBefore : Option Stamp) (expiry : Option Nat) :
    Statement (.announce tag clip zones priority notBefore expiry) := of_request rfl (
  by
    have := optional_length stamp 5 (fun t => (stamp_length t).le) notBefore
    have := optional_length num 2 (fun n => (num_length n).le) expiry
    simp only [encodeBody, List.length_append, num_length, zoneBytes_length, code_length]
    omega)
theorem announceCancel (tag id : Nat) : Statement (.announceCancel tag id) := of_request rfl (Nat.le_of_ble_eq_true rfl)
theorem queueList (tag start : Nat) : Statement (.queueList tag start) := of_request rfl (Nat.le_of_ble_eq_true rfl)
theorem finishedList (tag : Nat) : Statement (.finishedList tag) := of_request rfl (Nat.le_of_ble_eq_true rfl)
theorem pageSet (tag slot : Nat) (zones : ZoneSet) (priority chime trigger : Nat) :
    Statement (.pageSet tag slot zones priority chime trigger) := of_request rfl (Nat.le_of_ble_eq_true rfl)
theorem pageClose (tag slot : Nat) : Statement (.pageClose tag slot) := of_request rfl (Nat.le_of_ble_eq_true rfl)
theorem scriptSet (tag script preClip preDelay pattern evacuation clearLimit allClear : Nat) :
    Statement (.scriptSet tag script preClip preDelay pattern evacuation clearLimit allClear) := of_request rfl (Nat.le_of_ble_eq_true rfl)
theorem drillStart (tag script : Nat) (buildings : BuildingSet) :
    Statement (.drillStart tag script buildings) := of_request rfl (Nat.le_of_ble_eq_true rfl)
theorem drillSchedule (tag script : Nat) (buildings : BuildingSet) (moment : Stamp) :
    Statement (.drillSchedule tag script buildings moment) := of_request rfl (Nat.le_of_ble_eq_true rfl)
theorem drillCancel (tag : Nat) : Statement (.drillCancel tag) := of_request rfl (Nat.le_of_ble_eq_true rfl)
theorem drillRecordGet (tag number : Nat) : Statement (.drillRecordGet tag number) := of_request rfl (Nat.le_of_ble_eq_true rfl)
theorem alarmResume (tag : Nat) : Statement (.alarmResume tag) := of_request rfl (Nat.le_of_ble_eq_true rfl)
theorem status (tag : Nat) : Statement (.status tag) := of_request rfl (Nat.le_of_ble_eq_true rfl)
theorem conditionsClear (tag : Nat) (conditions : CondSet) : Statement (.conditionsClear tag conditions) := of_request rfl (Nat.le_of_ble_eq_true rfl)
theorem attentionSet (tag : Nat) (conditions : CondSet) : Statement (.attentionSet tag conditions) := of_request rfl (Nat.le_of_ble_eq_true rfl)
theorem settingsSet (tag : Nat) (settings : SettingsArg) : Statement (.settingsSet tag settings) := of_request rfl (
  by
    have := flatMap_length num (fun n => (num_length n).le) settings.retry
    have := flatMap_length code (fun n => (code_length n).le) settings.bypass
    simp only [encodeBody, List.length_append, num_length, code_length]
    omega)
theorem settingsGet (tag : Nat) : Statement (.settingsGet tag) := of_request rfl (Nat.le_of_ble_eq_true rfl)
theorem restart (tag : Nat) : Statement (.restart tag) := of_request rfl (Nat.le_of_ble_eq_true rfl)
theorem linkByte (byte : Byte) : Statement (.linkByte byte) := of_event rfl
theorem byteGap : Statement (.byteGap) := of_event rfl
theorem frameEnd (check : Byte) : Statement (.frameEnd check) := of_event rfl
theorem replySent : Statement (.replySent) := of_event rfl
theorem secondEnd : Statement (.secondEnd) := of_event rfl
theorem shiftApply : Statement (.shiftApply) := of_event rfl
theorem entryToBackup (taken : BuildingSet) : Statement (.entryToBackup taken) := of_event rfl
theorem mainSupplyChange (valid : Bool) : Statement (.mainSupplyChange valid) := of_event rfl
theorem restore : Statement (.restore) := of_event rfl
theorem coldStart : Statement (.coldStart) := of_event rfl
theorem resetnAssert : Statement (.resetnAssert) := of_event rfl
theorem resetnRelease : Statement (.resetnRelease) := of_event rfl
theorem successfulAttempt (bus : Building) (shorted : Bool) : Statement (.successfulAttempt bus shorted) := of_event rfl
theorem failedAttempt (bus : Building) : Statement (.failedAttempt bus) := of_event rfl
theorem busyLimit (bus : Building) (shorted : Bool) : Statement (.busyLimit bus shorted) := of_event rfl
theorem applyMark (bus : Building) : Statement (.applyMark bus) := of_event rfl
theorem pollDue (bus : Building) (address : Nat) : Statement (.pollDue bus address) := of_event rfl
theorem drivingUntil (bus : Building) (address : Nat) : Statement (.drivingUntil bus address) := of_event rfl
theorem impulseIssue (line : LineNo) : Statement (.impulseIssue line) := of_event rfl
theorem faultProbe (line : LineNo) : Statement (.faultProbe line) := of_event rfl
theorem entryDue (slot : Nat) : Statement (.entryDue slot) := of_event rfl
theorem quietEnd (building : Building) (zone : Fin 8) : Statement (.quietEnd building zone) := of_event rfl
theorem ringDeadline (run : RunIx) : Statement (.ringDeadline run) := of_event rfl
theorem patternEnd (gen : GenNo) : Statement (.patternEnd gen) := of_event rfl
theorem eligible (id : Nat) : Statement (.eligible id) := of_event rfl
theorem expired (id : Nat) : Statement (.expired id) := of_event rfl
theorem cplayAsserted : Statement (.cplayAsserted) := of_event rfl
theorem cplayReleased : Statement (.cplayReleased) := of_event rfl
theorem startWindow : Statement (.startWindow) := of_event rfl
theorem endLimit : Statement (.endLimit) := of_event rfl
theorem stopWindow : Statement (.stopWindow) := of_event rfl
theorem pttLevelChange (slot : PageSlot) (asserted : Bool) : Statement (.pttLevelChange slot asserted) := of_event rfl
theorem pttChange (slot : PageSlot) : Statement (.pttChange slot) := of_event rfl
theorem pageWaitLimit (slot : PageSlot) : Statement (.pageWaitLimit slot) := of_event rfl
theorem pageTalkLimit (slot : PageSlot) : Statement (.pageTalkLimit slot) := of_event rfl
theorem preDelayEnd : Statement (.preDelayEnd) := of_event rfl
theorem evacEnd : Statement (.evacEnd) := of_event rfl
theorem clearLimit : Statement (.clearLimit) := of_event rfl
theorem scheduledDrillArrival : Statement (.scheduledDrillArrival) := of_event rfl
theorem fireLevelChange (asserted : Bool) : Statement (.fireLevelChange asserted) := of_event rfl
theorem activation : Statement (.activation) := of_event rfl
theorem quieting : Statement (.quieting) := of_event rfl
theorem buildingClearPress (building : Building) : Statement (.buildingClearPress building) := of_event rfl
theorem probeMeasurementEnd (bus : Building) (address : Nat) (result : Measured) :
    Statement (.probeMeasurementEnd bus address result) := of_event rfl
theorem backupSupplyLoss : Statement (.backupSupplyLoss) := of_event rfl

end Sys2Proof.Laws.RequestFrame
end

