-- ==== Sys2Proof/Laws/Sound.lean ====
section
/-! SUPPORT. `Sound d d'`: the part of `Kept` that every command leaves true, even one that changes the configuration,
the field stations, the bus modes or the alarm hold: the bus queues, the clock lines and the collections stay lawful,
and a condition stays latched. Here are the functions that are `Sound` without being `Kept`. -/

namespace Sys2Proof.Machine

structure Sound (d d' : Dev) : Prop where
  bus : ∀ b : Building, queueLawful d.bus[b] = true → queueLawful d'.bus[b] = true
  lines : ∀ i : LineNo, (d.lines[i]).all lineLawful = true → (d'.lines[i]).all lineLawful = true
  caps : capsLawful d = true → capsLawful d' = true
  conds : ∀ i : Nat, d.conds.getLsbD i = true → d'.conds.getLsbD i = true

theorem Sound.refl (d : Dev) : Sound d d := ⟨fun _ => id, fun _ => id, id, fun _ => id⟩

theorem Sound.trans {d e f : Dev} (h : Sound d e) (k : Sound e f) : Sound d f :=
  ⟨fun b q => k.bus b (h.bus b q), fun i q => k.lines i (h.lines i q), fun q => k.caps (h.caps q),
    fun i q => k.conds i (h.conds i q)⟩

theorem Kept.sound {d d' : Dev} (h : Kept d d') : Sound d d' :=
  ⟨fun b => (h.bus b).queue, fun i => (h.lines i).lawful, h.capsLawful, h.conds⟩

/-- After a sound change, one that keeps everything. -/
theorem Sound.kept {d0 d d' : Dev} (h : Sound d0 d) (k : Kept d d') : Sound d0 d' := h.trans k.sound

theorem Sound.queuesLawful {d d' : Dev} (h : Sound d d') (q : queuesLawful d = true) : queuesLawful d' = true := by
  simp only [Machine.queuesLawful, List.all_eq_true] at q ⊢
  exact fun b hb => h.bus b (q b hb)

theorem Sound.linesLawful {d d' : Dev} (h : Sound d d') (q : linesLawful d = true) : linesLawful d' = true := by
  simp only [Machine.linesLawful, List.all_eq_true] at q ⊢
  exact fun i hi => h.lines i (q i hi)

theorem Sound.condsWithin {d d' : Dev} (h : Sound d d') : condsWithin d.conds d'.conds = true :=
  (condsWithin_iff _ _).2 h.conds

variable {d0 d : Dev}

/-! ## Parts replaced -/

theorem setBus_sound {b : Building} {x : Bus} (h : Sound d0 d)
    (hx : queueLawful d.bus[b] = true → queueLawful x = true) : Sound d0 (setBus b x d) := by
  refine h.trans { Sound.refl d with bus := fun c => ?_ }
  simp only [setBus_bus, put_get_any]
  split
  · subst_vars; exact hx
  · exact id

theorem setLine_sound {i : LineNo} {x : Option Line} (h : Sound d0 d)
    (hx : (d.lines[i]).all lineLawful = true → x.all lineLawful = true) : Sound d0 (setLine i x d) := by
  refine h.trans { Sound.refl d with lines := fun j => ?_ }
  simp only [setLine_lines, put_get_any]
  split
  · subst_vars; exact hx
  · exact id

theorem modLine_sound {i : LineNo} {f : Line → Line} (h : Sound d0 d)
    (hf : ∀ l, lineLawful l = true → lineLawful (f l) = true) : Sound d0 (modLine i f d) := by
  unfold modLine
  split
  · next l hl => exact setLine_sound h (by rw [hl]; exact hf l)
  · exact h

/-- Nothing of the laws is in the part that a command rewrites. -/
theorem same_sound {d' : Dev} (h : Sound d0 d) (hb : d'.bus = d.bus) (hl : d'.lines = d.lines)
    (hc : capsLawful d' = capsLawful d) (hs : d'.conds = d.conds) : Sound d0 d' :=
  h.trans ⟨fun b => by rw [hb]; exact id, fun i => by rw [hl]; exact id, by rw [hc]; exact id,
    fun i => by rw [hs]; exact id⟩

/-! ## Buses and field stations (R20 to R41) -/

theorem setField_queue (bus : Bus) (f : FieldStation) : queueLawful (setField bus f) = queueLawful bus := by
  unfold setField
  split <;> rfl

theorem pollTaken_queue (bus : Bus) (a : Nat) : queueLawful (pollTaken bus a) = queueLawful bus := by
  unfold pollTaken
  dsimp only
  split <;> exact setField_queue _ _

theorem attemptSucceeds_sound {e : Env} {b : Building} {shorted : Bool} (h : Sound d0 d) :
    Sound d0 (attemptSucceeds e b shorted d) := by
  have hf (f : FieldStation) : queueLawful { setField d.bus[b] f with wire := .idle } = queueLawful d.bus[b] :=
    (by rfl : _ = queueLawful (setField d.bus[b] f)).trans (setField_queue _ _)
  have plain (f : FieldStation) : Sound d0 (setBus b { setField d.bus[b] f with wire := .idle } d) :=
    setBus_sound h fun q => by rw [hf]; exact q
  have modded (f : FieldStation) (a : Nat) (g : Station → Station) :
      Sound d0 (setBus b (modStation { setField d.bus[b] f with wire := .idle } a g) d) :=
    setBus_sound h fun q => by
      rw [show queueLawful (modStation { setField d.bus[b] f with wire := .idle } a g) =
        queueLawful { setField d.bus[b] f with wire := .idle } from rfl, hf]
      exact q
  have polled (a : Nat) : queueLawful { pollTaken d.bus[b] a with wire := .idle } = queueLawful d.bus[b] :=
    (by rfl : _ = queueLawful (pollTaken d.bus[b] a)).trans (pollTaken_queue _ _)
  have answered (a : Nat) : Sound d0 (setBus b { pollTaken d.bus[b] a with wire := .idle } d) :=
    setBus_sound h fun q => by rw [polled]; exact q
  unfold attemptSucceeds
  dsimp only
  split
  · split
    · split
      · exact (modded _ _ _).kept (push_kept (tellCarried_kept (.refl _)))
      · split
        · exact (plain _).kept (push_kept (tellOutcome_kept (.refl _)))
        · exact (modded _ _ _).kept (push_kept (tellOutcome_kept (.refl _)))
    · split
      · exact (answered _).kept (push_kept (.refl _))
      · split
        · refine Sound.kept (setBus_sound h fun q => ?_) (push_kept (deliverPoll_kept (.refl _)))
          exact (polled _).symm ▸ q
        · exact (answered _).kept (push_kept (.refl _))
  · exact h

theorem attemptBusy_sound {e : Env} {b : Building} {shorted : Bool} (h : Sound d0 d) :
    Sound d0 (attemptBusy e b shorted d) := by
  unfold attemptBusy
  dsimp only
  split
  · split
    · exact (setBus_sound h fun q => by rw [setField_queue]; exact q).kept (attemptFails_kept (.refl _))
    · exact h.kept (attemptFails_kept (.refl _))
  · exact h

theorem applyEnds_sound {b : Building} (h : Sound d0 d) : Sound d0 (applyEnds b d) := by
  unfold applyEnds
  split
  · refine Sound.kept (setBus_sound h ?_) (pushAll_kept (.refl _))
    exact id
  · exact h

theorem configureStation_sound {e : Env} {b : Building} {addr : Nat} {k : StationKind} (h : Sound d0 d) :
    Sound d0 (configureStation e b addr k d) := by
  have h1 : Sound d0 (addStation e b addr k d) := by
    unfold addStation
    refine Sound.kept (setBus_sound h ?_) (push_kept (.refl _))
    exact id
  unfold configureStation
  dsimp only
  split
  · exact h1.kept (switchConfigured_kept (.refl _))
  · exact h1

theorem removeStation_sound {b : Building} {r : Station} (h : Sound d0 d) : Sound d0 (removeStation b r d) := by
  unfold removeStation
  dsimp only
  refine Sound.kept (setBus_sound h fun q => ?_)
    (push_kept (tellLost_kept (dropProbe_kept (pushAll_kept (discardAll_kept (.refl _))))))
  exact queue_shorter_lawful (x := d.bus[b]) rfl List.filter_sublist q

theorem fieldCutOff_queue (bus : Bus) : queueLawful (fieldCutOff bus) = queueLawful bus := by
  unfold fieldCutOff
  split
  · split
    · exact setField_queue _ _
    · rfl
  · rfl
  · rfl

/-- An empty queue is lawful. -/
theorem empty_lawful {bus : Bus} (h : bus.queue = []) : queueLawful bus = true := by
  unfold queueLawful
  rw [h]
  split <;> simp

theorem busBackup_sound {taken : BuildingSet} {b : Building} (h : Sound d0 d) : Sound d0 (busBackup taken b d) := by
  unfold busBackup
  exact setBus_sound h fun _ => empty_lawful rfl

theorem busRestart_sound {e : Env} {b : Building} (h : Sound d0 d) : Sound d0 (busRestart e b d) := by
  unfold busRestart
  exact setBus_sound h fun _ => empty_lawful rfl

theorem abandonCarried_sound {taken : BuildingSet} {b : Building} (h : Sound d0 d) :
    Sound d0 (abandonCarried taken b d) := by
  unfold abandonCarried
  split
  · exact (setBus_sound h fun q => by rw [fieldCutOff_queue]; exact q).kept (busAbandon_kept (.refl _))
  · exact h.kept (busAbandon_kept (.refl _))

theorem eachBus_sound {f : Building → Dev → Dev} (hf : ∀ b d, Sound d (f b d)) {l : List Building} (h : Sound d0 d) :
    Sound d0 (eachBus f l d) := by
  induction l generalizing d with
  | nil => exact h
  | cons b rest ih => exact ih (h.trans (hf b d))

theorem eachBus_kept {f : Building → Dev → Dev} (hf : ∀ b d, Kept d (f b d)) {l : List Building} (h : Kept d0 d) :
    Kept d0 (eachBus f l d) := by
  induction l generalizing d with
  | nil => exact h
  | cons b rest ih => exact ih (h.trans (hf b d))

theorem orderAlarmMode_sound {b : Building} (h : Sound d0 d) : Sound d0 (orderAlarmMode b d).2 := by
  unfold orderAlarmMode
  dsimp only
  split
  · exact h
  · exact (setBus_sound h fun _ => empty_lawful rfl).kept (alarmPlacements_kept (discardAll_kept (.refl _)))

theorem orderNormalMode_sound {b : Building} (h : Sound d0 d) : Sound d0 (orderNormalMode b d) := by
  unfold orderNormalMode
  refine setBus_sound h fun q => ?_
  unfold queueLawful at q ⊢
  simp only [Bool.false_eq_true, if_false, decide_eq_true_eq]
  split at q
  · simp only [Bool.and_eq_true, decide_eq_true_eq] at q
    omega
  · simpa using q

/-! ## The alarm hold (R164, R171) -/

theorem alarmBus_sound {e : Env} {b : Building} (h : Sound d0 d) : Sound d0 (alarmBus e b d) := by
  have h1 := orderAlarmMode_sound (b := b) h
  unfold alarmBus
  generalize orderAlarmMode b d = p at h1 ⊢
  obtain ⟨serial, d1⟩ := p
  dsimp only
  split
  · exact h1.kept (setAhLamp_kept (setAlarmFast_kept (.refl _)))
  · exact h1.kept (setAlarmFast_kept (.refl _))

theorem alarmBuses_sound {e : Env} {l : List Building} (h : Sound d0 d) : Sound d0 (alarmBuses e l d) := by
  induction l generalizing d with
  | nil => exact h
  | cons b rest ih => exact ih (alarmBus_sound h)

theorem setAh_sound {x : AlarmHold} (h : Sound d0 d) : Sound d0 (setAh x d) := same_sound h rfl rfl rfl rfl

theorem beginHold_sound {e : Env} (h : Sound d0 d) : Sound d0 (beginHold e d) := by
  have h1 : Sound d0 (dcAlarm e (setAh { d.ah with hold := true } d)) :=
    (setAh_sound h).kept (dcAlarm_kept (.refl _))
  have h2 := h1.kept (openRecord_kept (kind := .alarm)
    (set := stationedBuildings (dcAlarm e (setAh { d.ah with hold := true } d))) (start := e.now) (.refl _))
  unfold beginHold
  dsimp only
  refine Sound.kept (alarmBuses_sound ?_) (latch_kept (.refl _))
  exact (setAh_sound h2).kept (forceTrunks_kept (puAlarm_kept (amAlarm_kept (rsAlarm_kept (.refl _)))))

theorem activationTaken_sound {e : Env} (h : Sound d0 d) : Sound d0 (activationTaken e d) := by
  unfold activationTaken
  dsimp only
  split
  · exact (setAh_sound h).kept (modAlarmRecord_kept (.refl _))
  · exact beginHold_sound (setAh_sound h)

theorem quietingTaken_sound {e : Env} (h : Sound d0 d) : Sound d0 (quietingTaken e d) := by
  unfold quietingTaken
  dsimp only
  split
  · exact (setAh_sound h).kept (modAlarmRecord_kept (.refl _))
  · exact setAh_sound h

theorem normalBuses_sound {e : Env} {l : List Building} (h : Sound d0 d) : Sound d0 (normalBuses e l d) := by
  induction l generalizing d with
  | nil => exact h
  | cons b rest ih => exact ih ((orderNormalMode_sound h).kept (setAlarmFast_kept (.refl _)))

theorem setRow_sound {b : Building} {x : Row} (h : Sound d0 d) : Sound d0 (setRow b x d) :=
  same_sound h rfl rfl rfl rfl

theorem freeList_sound {l : List Building} (h : Sound d0 d) : Sound d0 (freeList l d) := by
  induction l generalizing d with
  | nil => exact h
  | cons b rest ih =>
    unfold freeList
    refine ih ?_
    split
    · exact (setRow_sound h).kept (placeMute_kept (.refl _))
    · exact h

theorem resumeHold_sound {e : Env} (h : Sound d0 d) : Sound d0 (resumeHold e d) := by
  have h1 : Sound d0 (match d.ah.record with
      | some n => closeRecord e.now n .resumed d
      | none => d) := by
    split
    · exact h.kept (closeRecord_kept (.refl _))
    · exact h
  unfold resumeHold
  dsimp only
  exact Sound.kept (freeList_sound (normalBuses_sound (setAh_sound h1))) (wantLamps_kept (.refl _))

theorem fireLevel_sound {e : Env} {v : Bool} (h : Sound d0 d) : Sound d0 (fireLevel e v d) := by
  unfold fireLevel
  dsimp only
  split
  · exact (setAh_sound h).kept (timeFire_kept (.refl _))
  · exact setAh_sound (setAh_sound h)

/-! ## Inputs (R120, R138) -/

theorem cplay_sound {v : Bool} (h : Sound d0 d) : Sound d0 (setAm { d.am with cplay := v } d) :=
  same_sound h rfl rfl rfl rfl

theorem cplayUp_sound (h : Sound d0 d) : Sound d0 (cplayUp d) := by
  unfold cplayUp
  dsimp only
  split
  · exact (cplay_sound h).kept (setAm_kept (.refl _) ⟨rfl, rfl, id, id⟩)
  · exact cplay_sound h

theorem cplayDown_sound {e : Env} (h : Sound d0 d) : Sound d0 (cplayDown e d) := by
  unfold cplayDown
  dsimp only
  split
  · split
    · exact (cplay_sound h).kept (endRequest_kept (.refl _))
    · exact (cplay_sound h).kept (playerIdle_kept (.refl _))
  · exact (cplay_sound h).kept (playerIdle_kept (.refl _))
  · exact cplay_sound h

theorem setPage_sound {k : PageSlot} {x : Page} (h : Sound d0 d) : Sound d0 (setPage k x d) := by
  cases k <;> exact same_sound h rfl rfl rfl rfl

theorem pttLevel_sound {e : Env} {k : PageSlot} {v : Bool} (h : Sound d0 d) : Sound d0 (pttLevel e k v d) :=
  setPage_sound h

/-! ## The supply and RESTART (R13, R14, R18) -/

theorem taRestart_sound (h : Sound d0 d) : Sound d0 (taRestart d) := by
  unfold taRestart
  refine Sound.kept (d := { d with ta := { d.ta with barriers := [], rows := tabMap emptyRow d.ta.rows } }) ?_
    (awaitAll_kept (.refl _))
  exact same_sound h rfl rfl rfl rfl

theorem devRestart_sound {e : Env} (h : Sound d0 d) : Sound d0 (devRestart e d) := by
  unfold devRestart
  have h1 : Sound d0 (eachBus (busRestart e) buildings d) := eachBus_sound (fun _ _ => busRestart_sound (.refl _)) h
  have h2 := h1.kept (ttCutOff_kept (lcRestart_kept (.refl _)))
  exact (taRestart_sound h2).kept
    (ahRestart_kept (dcCutOff_kept (puStart_kept (amRestart_kept (rsRestart_kept (.refl _))))))

theorem devBackup_sound {taken : BuildingSet} {e : Env} (h : Sound d0 d) : Sound d0 (devBackup taken e d) := by
  unfold devBackup
  have h1 : Sound d0 (eachBus (busBackup taken) buildings d) := eachBus_sound (fun _ _ => busBackup_sound (.refl _)) h
  exact h1.kept (ahBackup_kept (dcCutOff_kept (puBackup_kept (amBackup_kept (push_kept (rsBackup_kept
    (taBackup_kept (ttCutOff_kept (lcBackup_kept (.refl _)))))))))) 

theorem powerUp_bus (b : Building) : (powerUp d).bus[b] = powerUpBus d.bus[b] := tabMap_get _ _ _

theorem powerUp_sound (h : Sound d0 d) : Sound d0 (powerUp d) :=
  h.trans { Sound.refl d with bus := fun b => by rw [powerUp_bus]; exact id }

theorem powerUp_trunksForced (d : Dev) : trunksForced (powerUp d) = trunksForced d := by
  simp only [trunksForced, switchOf, powerUp_bus]
  rfl

theorem devRestore_sound {ev : RestoreEvent} {e : Env} (h : Sound d0 d) : Sound d0 (devRestore ev e d) :=
  (powerUp_sound h).kept devRestore_kept

theorem ahRestartEnds_sound {e : Env} (h : Sound d0 d) : Sound d0 (ahRestartEnds e d) := by
  unfold ahRestartEnds
  split
  · exact Sound.kept (alarmBuses_sound (h.kept (forceTrunks_kept (.refl _)))) (timeFire_kept (.refl _))
  · exact h.kept (timeFire_kept (placeOffs_kept (clearOutstanding_kept (.refl _))))

theorem restartTail_kept {e : Env} {x : Dev} (k : Kept d0 x) :
    Kept d0 (dcLampsAfter (puStart (amRestartEnds e (lcRestartEnds e x)))) := by
  refine dcLampsAfter_kept (puStart_kept (amRestartEnds_kept ?_))
  exact lcRestartEnds_kept k

theorem devRestartEnds_sound {e : Env} {step : Option TimeStep} {shifted : Bool} (h : Sound d0 d) :
    Sound d0 (devRestartEnds e step shifted d) := by
  have k1 : Kept d (push .ttSettle (rsRestartEnds (eachBus busRestartEnds buildings d))) :=
    push_kept (rsRestartEnds_kept (eachBus_kept (fun _ _ => busRestartEnds_kept (.refl _)) (.refl _)))
  unfold devRestartEnds
  generalize push .ttSettle (rsRestartEnds (eachBus busRestartEnds buildings d)) = x at k1 ⊢
  refine ahRestartEnds_sound (h.kept ?_)
  have k2 := restartTail_kept (e := e) k1
  cases step with
  | none =>
    cases shifted
    · rw [if_neg Bool.false_ne_true]; exact k2
    · rw [if_pos rfl]; exact latch_kept k2
  | some st =>
    have k3 := restartTail_kept (e := e) (pushAll_kept (ms := [.stepTT st, .stepLC st]) k1)
    cases shifted
    · rw [if_neg Bool.false_ne_true]; exact k3
    · rw [if_pos rfl]; exact latch_kept k3

/-! ## Requests -/

theorem freshLine_lawful {b : Building} {addr span hold catchUp width : Nat} {view : DriverView}
    (h : lineFieldsOk span hold catchUp width = true) :
    lineLawful (freshLine b addr span hold catchUp width view) = true := by
  simp only [lineFieldsOk, Bool.and_eq_true] at h
  simp only [lineLawful, freshLine, Option.isNone_none, Bool.and_true]
  exact h.1.1.1.1.1.1.1

theorem configureLine_sound {e : Env} {i : LineNo} {l : Line} (hl : lineLawful l = true) (h : Sound d0 d) :
    Sound d0 (configureLine e i l d) :=
  (setLine_sound (x := some l) h fun _ => hl).kept (evaluate_kept (latch_kept (.refl _)))

theorem setDial_lawful {hh mm : Nat} {l : Line} (h : lineLawful l = true) : lineLawful (setDial hh mm l) = true := by
  simp only [lineLawful, Bool.and_eq_true, Bool.or_eq_true, beq_iff_eq] at h
  simp only [lineLawful, setDial, Bool.and_eq_true, Bool.or_eq_true, beq_iff_eq]
  have hs : 0 < l.span := by rcases h.1 with e | e <;> omega
  exact ⟨h.1, decide_eq_true (Nat.mod_lt _ hs), trivial⟩

theorem disableLine_sound {e : Env} {i : LineNo} (h : Sound d0 d) : Sound d0 (disableLine e i d) := by
  have h1 : Sound d0 (modLine i (fun l => { l with enabled := false }) d) := modLine_sound h fun _ q => q
  unfold disableLine
  dsimp only
  split
  · split
    · exact h1.kept (endProbe_kept (.refl _))
    · exact h1.kept (restate_kept (.refl _))
  · exact h1

theorem pressPanel_sound {clock : Nat} {b : Building} (h : Sound d0 d) : Sound d0 (pressPanel clock b d) := by
  unfold pressPanel
  exact setBus_sound h fun q => by rw [setField_queue]; exact q

theorem finishMeasurement_sound {b : Building} {address : Nat} {result : Measured} (h : Sound d0 d) :
    Sound d0 (finishMeasurement b address result d) := by
  unfold finishMeasurement
  dsimp only
  split
  · exact setBus_sound h fun q => by rw [setField_queue]; exact q
  · exact h

end Sys2Proof.Machine
end

