-- ==== Sys2Proof/Laws/Supply.lean ====
section
/-! SUPPORT. What the beginning of a RESTART does to a state, said once (R18, R176), so that no proof unfolds `settle`; and
what an evaluation does to a line that is not enabled (R46 to R48). -/

namespace Sys2Proof.Machine

/-! ## The beginning of a RESTART -/

/-- LP's part (R176): a request that is held makes LINK OVERRUN, and the blocks see nothing else. -/
theorem linkRestart_dev (s : State) : (linkRestart s).dev = { s.dev with
    conds := if s.link.inReply.isSome || s.link.waiting.isSome then s.dev.conds ||| 0x8000 else s.dev.conds } := by
  unfold linkRestart
  by_cases h : (s.link.inReply.isSome || s.link.waiting.isSome) = true
  · simp only [if_pos h]; rfl
  · simp only [if_neg h]; rfl

@[simp] theorem linkRestart_tb (s : State) : (linkRestart s).tb = s.tb := rfl
@[simp] theorem linkRestart_pending (s : State) : (linkRestart s).pending = s.pending := rfl
@[simp] theorem linkRestart_link (s : State) :
    (linkRestart s).link = { s.link with rx := none, inReply := none, waiting := none } := rfl

@[simp] theorem beginRestart_tb (s : State) : (beginRestart s).tb =
    { s.tb with restart := some { began := s.tb.time, spanned := false, shifted := false } } := rfl
@[simp] theorem beginRestart_pending (s : State) : (beginRestart s).pending = s.pending := rfl
@[simp] theorem beginRestart_link (s : State) :
    (beginRestart s).link = { s.link with rx := none, inReply := none, waiting := none } := rfl

/-- What the blocks see of the state as it enters a block's change is what they see of it after. -/
theorem envOf_inBlocks (f : Env → Dev → Dev) (s : State) : envOf (inBlocks f s) = envOf s := by
  simp only [envOf, inBlocks_tb, inBlocks_link]

/-- The blocks take the RESTART with LINK OVERRUN latched where a request was held (R18, R176). -/
theorem beginRestart_dev (s : State) : (beginRestart s).dev =
    settle (envOf (beginRestart s)) (devRestart (envOf (beginRestart s)) { s.dev with
      conds := if s.link.inReply.isSome || s.link.waiting.isSome then s.dev.conds ||| 0x8000 else s.dev.conds }) := by
  have h : (setTb { s.tb with restart := some { began := s.tb.time, spanned := false, shifted := false } } s).dev =
    s.dev := rfl
  rw [beginRestart, envOf_inBlocks, inBlocks_dev, linkRestart_dev, h]
  rfl

/-! ## A line that is not enabled -/

/-- Its state is DISABLED and it issues nothing. -/
theorem evaluate_of_disabled {e : Env} {i : LineNo} {d : Dev} {l : Line} (h : l.enabled = false) :
    evaluate e i (setLine i (some l) d) = setLine i (some { l with state := .disabled }) d := by
  simp [evaluate, restate, modLine, setLine, lineStateOf, h, tryIssue, mayIssue, put]

end Sys2Proof.Machine
end

