-- ==== Sys2Proof/Tests/Slice0.lean ====
section
/-! SUPPORT. The model's own tests: ill-formed commands that WellFormed refuses, small cases whose expected values come
from the worked cases of the chapters, and for every statement with hypotheses a state and operands that meet them. -/

namespace Sys2Proof.Tests

open Sys2Proof Sys2Proof.Machine

/-! ## WellFormed refuses what does not fit -/

/-- A tag is two bytes (R173). -/
theorem test_wf_tag : wellFormed (.timeGet 65535) = true ∧ wellFormed (.timeGet 65536) = false := by decide

/-- A number is two bytes (R182). -/
theorem test_wf_number : wellFormed (.planClear 0 65535) = true ∧ wellFormed (.planClear 0 65536) = false := by decide

/-- A code is one byte (R182). -/
theorem test_wf_code : wellFormed (.zoneSet 0 1 255) = true ∧ wellFormed (.zoneSet 0 1 256) = false := by decide

/-- A time of day is three bytes (R182). -/
theorem test_wf_time : wellFormed (.timeSet 0 0 16777215) = true ∧ wellFormed (.timeSet 0 0 16777216) = false := by decide

/-- Both parts of a stamp must fit (R182). -/
theorem test_wf_stamp :
    wellFormed (.quietSet 0 1 { day := 65536, sec := 0 }) = false ∧
      wellFormed (.quietSet 0 1 { day := 0, sec := 16777216 }) = false := by decide

/-- A signed number is two bytes of two's complement (R182). -/
theorem test_wf_signed :
    wellFormed (.trimSet 0 (-32768)) = true ∧ wellFormed (.trimSet 0 (-32769)) = false ∧
      wellFormed (.trimSet 0 32768) = false := by decide

/-- A field that is present must fit (R182). -/
theorem test_wf_optional :
    wellFormed (.announce 0 1 1 0 none none) = true ∧ wellFormed (.announce 0 1 1 0 none (some 65536)) = false ∧
      wellFormed (.lineConfig 0 0 0 0 (some 65536) none none none) = false := by decide

/-- A step place's tone and duration fit (R103). -/
theorem test_wf_place :
    wellFormed (.patternSet 0 1 (Vector.replicate 8 (.tone 65536 1))) = false ∧
      wellFormed (.patternSet 0 1 (Vector.replicate 8 (.tone 1 65536))) = false ∧
      wellFormed (.patternSet 0 1 (Vector.replicate 8 (.gap 65536))) = false := by decide

/-- A kind byte that names neither kind is neither 0 nor 1 (R64). -/
theorem test_wf_kind :
    wellFormed (.entryAdd 0 0 0 (.other 1) 1) = false ∧ wellFormed (.entryAdd 0 0 0 (.other 256) 1) = false ∧
      wellFormed (.entryAdd 0 0 0 (.ring 65536) 1) = false ∧ wellFormed (.entryAdd 0 0 0 (.clip 65536 0) 1) = false ∧
      wellFormed (.entryAdd 0 0 0 (.clip 1 256) 1) = false := by decide

/-- The settings as SETTINGS SET would carry them (R177). -/
def goodSettings : SettingsArg :=
  { lateWindow := 30, bellWindow := 20, announceExpiry := 600, pageTalk := 120, pageWait := 5
    retry := Vector.replicate 8 4, bypass := Vector.replicate 8 0, stampMode := 1 }

/-- Every field of SETTINGS SET must fit. -/
theorem test_wf_settings :
    wellFormed (.settingsSet 0 goodSettings) = true ∧
      wellFormed (.settingsSet 0 { goodSettings with lateWindow := 65536 }) = false ∧
      wellFormed (.settingsSet 0 { goodSettings with retry := Vector.replicate 8 65536 }) = false ∧
      wellFormed (.settingsSet 0 { goodSettings with bypass := Vector.replicate 8 256 }) = false ∧
      wellFormed (.settingsSet 0 { goodSettings with stampMode := 256 }) = false := by decide

/-- A week map's plans fit (R68). -/
theorem test_wf_week : wellFormed (.weekSet 0 (Vector.replicate 7 65536)) = false := by decide

/-- A station's address is 1 to 30. -/
theorem test_wf_address :
    wellFormed (.pollDue 0 0) = false ∧ wellFormed (.pollDue 0 31) = false ∧ wellFormed (.drivingUntil 0 31) = false := by
  decide

/-- A load estimate is at most 60 (R24). -/
theorem test_wf_load :
    wellFormed (.probeMeasurementEnd 0 1 (.ok 60)) = true ∧ wellFormed (.probeMeasurementEnd 0 1 (.ok 61)) = false := by
  decide

/-- The pool has 384 slots (R64). -/
theorem test_wf_slot : wellFormed (.entryDue 383) = true ∧ wellFormed (.entryDue 384) = false := by decide

/-- An announcement id is 1 to 255 (R122). -/
theorem test_wf_id :
    wellFormed (.eligible 0) = false ∧ wellFormed (.eligible 256) = false ∧ wellFormed (.expired 256) = false := by decide

/-! ## Small states -/

/-- The device after reset. -/
def up : State := State.reset

/-- The device running at a campus time. -/
def timed (day sec : Nat) : State := { up with tb := { up.tb with time := some { day := day, sec := sec } } }

/-- The device on backup, main supply absent. -/
def onBackup : State := { up with tb := { up.tb with supply := .backup, vmain := false } }

/-- A request in reply. -/
def sending : Replying := { kind := 67, tag := 7, result := .ok, data := [], restart := false }

/-- The device with a request in reply, and one that waits or not. -/
def replying (w : Option Waiting) : State := { up with link := { up.link with inReply := some sending, waiting := w } }

/-- The device with these bytes of a frame received. -/
def receiving (bytes : List Byte) : State := { up with link := { up.link with rx := some bytes } }

/-- A command's next state satisfies a check. -/
def leads (c : Instr) (s : State) (p : State → Bool) : Bool :=
  match exec c s with
  | .next t => p t
  | .fault _ => false
  | .refused _ => false

/-- A request is answered with this result. -/
def answers (c : Instr) (s : State) (r : Result) : Bool := leads c s fun t => t.link.inReply.any fun q => q.result = r

/-- A configured station, ONLINE with count 0. -/
def station (addr : Nat) (kind : StationKind) : Station :=
  { addr := addr, kind := kind, state := .online, fails := 0, lastHeard := none, unreported := false, pollAt := none,
    dueAt := none, probeAt := none, probeDue := false, probeRuns := 0, lastPoll := none, drivingUntil := none }

/-- The stations of bus 3 in section 2.10. -/
def stations : List Station :=
  [station 1 .zoneSwitch, station 4 .lineDriver, station 5 .lineDriver, station 9 .marshalPanel]

/-- The device with a bus as given. -/
def withBus (b : Building) (x : Bus) (s : State) : State := { s with dev := setBus b x s.dev }

/-- Line 2 of section 3.8, at 02:59 with its impulse confirmed. -/
def autumnLine : Line :=
  { building := 3, addr := 4, span := 720, hold := 60, catchUp := 2, width := 500, enabled := true, pos := some 179,
    setPos := none, pol := some .pos, counter := 0, inFlight := none, pace := 10, fault := none, faultWait := 0,
    probe := none, lastProbe := .none, lastProbeAt := none, view := .online, latch := some .pos, state := .run }

/-- The device with line 2 as given. -/
def withLine (l : Option Line) (s : State) : State := { s with dev := setLine 2 l s.dev }

/-! ## Cases from the chapters -/

/-- A TIME GET with tag 300 has length 3, kind 17, tag bytes 1 and 44 and check 191 (R173). -/
theorem test_time_get_frame :
    leads (.frameEnd 191) (receiving [165, 3, 17, 1, 44]) (fun t =>
      t.link.inReply.any fun q => q.kind = 17 && q.tag = 300 && q.result = .ok) = true ∧
    leads (.frameEnd 190) (receiving [165, 3, 17, 1, 44]) (fun t =>
      t.link.inReply.isNone && condHas t.dev.conds .linkError) = true := by decide +kernel

/-- An unknown kind is answered UNKNOWN, and a known one with a body of another length RANGE (R175). -/
theorem test_bad_frames :
    leads (.frameEnd 252) (receiving [165, 3, 1, 0, 0]) (fun t =>
      t.link.inReply.any fun q => q.result = .unknown) = true ∧
    leads (.frameEnd 236) (receiving [165, 4, 16, 0, 0, 0]) (fun t =>
      t.link.inReply.any fun q => q.result = .range) = true := by decide +kernel

/-- The busy link of section 11.5: the TIME SET loads its time while it waits; the STATUS after it is discarded. -/
theorem test_busy_link :
    leads (.timeSet 8 100 200) (replying none) (fun t =>
      t.tb.time = some { day := 100, sec := 200 } && t.link.waiting.isSome) = true ∧
    leads (.status 9) (replying (some { kind := 16, tag := 8, content := .fixed .ok })) (fun t =>
      condHas t.dev.conds .linkOverrun && t.link.waiting.any fun w => w.tag = 8) = true := by decide +kernel

/-- Trim +18: the :59 second has 32 786 ticks (R3, R4, section 1.5). -/
theorem test_trim_second :
    leads .secondEnd { timed 9430 10798 with tb := { (timed 9430 10798).tb with trim := 18 } } (fun t =>
      t.tb.secLen = 32786) = true ∧ answers (.trimSet 1 201) up .range = true := by decide +kernel

/-- The autumn night of section 1.5, at the end of 02:59:59. -/
def autumnNight : State :=
  { timed 9430 10799 with tb := { (timed 9430 10799).tb with slot := some { day := 9430, stated := 10800, shift := -3600 } } }

/-- Campus time goes to 02:00:00, the slot empties and SHIFT APPLIED is latched (R12). -/
theorem test_autumn_shift :
    leads .shiftApply autumnNight (fun t =>
      t.tb.time = some { day := 9430, sec := 7200 } && t.tb.slot.isNone && condHas t.dev.conds .shiftApplied) = true ∧
    answers (.shiftPlan 1 9430 10800 (-3600)) (timed 9424 50712) .ok = true := by decide +kernel

/-- The last day rolls over to day 0 (R6). -/
theorem test_rollover : leads .secondEnd (timed 36524 86399) (fun t => t.tb.time = some { day := 0, sec := 0 }) = true := by
  decide +kernel

/-- The second outage of section 1.6 in FIRST mode: the count grows and the stamp stays. -/
theorem test_first_mode :
    leads (.entryToBackup 0)
      { timed 9438 77400 with
        tb := { (timed 9438 77400).tb with
          stampCount := 1, stampStart := some { day := 9438, sec := 65560 }, stampEnd := some { day := 9438, sec := 67625 } }
        link := { up.link with settings := { up.link.settings with stampMode := .first } } }
      (fun t => t.tb.stampCount = 2 && t.tb.stampStart = some { day := 9438, sec := 65560 } &&
        t.tb.stampEnd = some { day := 9438, sec := 67625 }) = true := by decide +kernel

/-- The autumn table of section 3.8: HOLD with H = 60 and ADVANCE with H = 58 after the step to 02:00:00. -/
theorem test_autumn_line :
    lineStateOf (some { day := 9430, sec := 7200 }) autumnLine = .hold ∧
      lineStateOf (some { day := 9430, sec := 7200 }) { autumnLine with hold := 58 } = .advance ∧
      lineStateOf (some { day := 9430, sec := 10740 }) autumnLine = .run := by decide

/-- An impulse answered DRIVEN is confirmed: P = 180 and NEG; one of the recorded polarity is counted already (R50). -/
theorem test_confirm :
    (confirm .neg autumnLine).pos = some 180 ∧ (confirm .neg autumnLine).pol = some .neg ∧
      confirm .pos autumnLine = autumnLine := by decide

/-- The calendar of section 4.2. -/
def september : State :=
  { up with dev := { up.dev with tt := { up.dev.tt with
      week := #v[.plan 3, .plan 3, .plan 3, .plan 3, .plan 3, .none, .none]
      exceptions := [{ first := 9393, last := 9393, plan := .plan 5 }, { first := 9424, last := 9428, plan := .silent }] } } }

/-- The week in September of section 4.2. -/
theorem test_september :
    resolve september.dev 9389 = .plan 3 ∧ resolve september.dev 9393 = .plan 5 ∧ resolve september.dev 9394 = .none ∧
      resolve september.dev 9426 = .silent := by decide

/-- The exception requests of section 4.2. -/
theorem test_exceptions :
    answers (.exceptionAdd 1 9428 9431 65535) september .conflict = true ∧
      leads (.exceptionAdd 1 9429 9431 65535) september (fun t => t.dev.tt.exceptions.length = 3) = true ∧
      answers (.exceptionRemove 1 9426) september .notFound = true := by decide +kernel

/-- The zones of section 5.2: 1.2 disabled, 3.4 and 3.5 quiet, all of building 6 but 6.0 disabled, 6.0 quiet. -/
def filtered : Dev :=
  { up.dev with ta := { up.dev.ta with zones := Vector.ofFn fun i : Fin 64 =>
      { enabled := !(i = 10 || (48 < i.1 && i.1 < 56))
        quiet := if i = 28 || i = 29 || i = 48 then some { day := 1, sec := 39600 } else none } } }

/-- One zone set filtered three ways (section 5.2). -/
theorem test_filter :
    filterMap filtered .ring 1 0b110 = .kept 0b10 ∧ filterMap filtered .ring 3 0b110001 = .kept 1 ∧
      filterMap filtered .drill 3 0b110001 = .kept 0b110001 ∧ filterMap filtered .normal 6 1 = .quiet ∧
      filterMap filtered .urgent 6 1 = .kept 1 := by decide +kernel

/-- The third failed attempt at the panel of section 2.10: the count 3 exceeds the limit 2. -/
theorem test_lost_panel :
    leads (.failedAttempt 3)
      (withBus 3
        { Bus.cold with
          rows := [station 1 .zoneSwitch, { station 9 .marshalPanel with fails := 2 }]
          wire := .attempt
            { addr := 9, what := .command { addr := 9, op := .lamp .flash, owner := .dc, serial := 0 }, orphan := false
              carried := false } }
        { up with link := { up.link with settings := { up.link.settings with retry := Vector.replicate 8 2 } } })
      (fun t => (rowAt t.dev.bus[(3 : Building)] 9).any (fun r => r.state = .offline && r.fails = 3) &&
        condHas t.dev.conds .stationLost) = true := by decide +kernel

/-- Bus 6 of section 2.11 takes alarm mode: MUTE and LAMP ON of AH take the places of the five commands. -/
theorem test_alarm_mode :
    (orderAlarmMode 6 (setBus 6 { Bus.cold with
        rows := [station 1 .zoneSwitch, station 4 .lineDriver, station 5 .lineDriver, station 9 .marshalPanel]
        queue := [{ addr := 1, op := .stage 1, owner := .ta, serial := 0 }, { addr := 9, op := .lamp .off, owner := .dc, serial := 1 },
          { addr := 5, op := .impulse .pos 500, owner := .lc 13, serial := 2 }] } up.dev)).2.bus[(6 : Building)].queue.map
      (fun c => (c.addr, c.op, c.owner)) = [(1, .mute, .ah), (9, .lamp .on, .ah)] := by decide +kernel

/-- A second press leaves the press that is latched (R25). -/
theorem test_press :
    leads (.buildingClearPress 3) (withBus 3 { Bus.cold with rows := stations, field := [{ freshField 9 with press := some 5 }] } up)
      (fun t => (fieldAt t.dev.bus[(3 : Building)] 9).press = some 5) = true := by decide +kernel

/-! ## The hypotheses of the statements can be met -/

theorem witness_StepRunsTheFrontCommand :
    ({ up with pending := [.timeGet 1] } : State).pending = .timeGet 1 :: [] := rfl

theorem witness_IdleStepIsOneCrystalTick : up.pending = [] ∧ up.tb.retained = true := by decide

/-- The request that waits in the witnesses. -/
def waits : Waiting := { kind := 16, tag := 8, content := .fixed .ok }

theorem witness_RequestsAreTakenInTurn :
    (asRequest (.timeGet 300) = some (300, .timeGet) ∧ takesAtOnce up = true) ∧
    ((asRequest (.status 9) = some (9, .status) ∧ isRunning (replying none).tb = true ∧
      (replying none).link.inReply.isSome = true ∧ (replying none).link.waiting = none ∧
      ∀ day sec, Request.status ≠ .timeSet day sec) ∧
    (asRequest (.timeSet 9 36524 86400) = some (9, .timeSet 36524 86400) ∧ (36524 < 36524 ∨ 86399 < 86400)) ∧
    (asRequest (.timeSet 9 36524 86399) = some (9, .timeSet 36524 86399) ∧ (36524 ≤ 36524 ∧ 86399 ≤ 86399)) ∧
    isRunning (replying (some waits)).tb = true ∧ (replying (some waits)).link.inReply.isSome = true ∧
      (replying (some waits)).link.waiting.isSome = true) :=
  ⟨(by decide),
   (⟨⟨rfl, by decide, by decide, by decide, fun _ _ h => nomatch h⟩, by decide, by decide, by decide⟩)⟩

theorem witness_ReplySentTakesTheWaitingRequest :
    ((isRunning (replying none).tb = true ∧ (replying none).link.inReply = some sending ∧ sending.restart = false ∧
      (replying none).link.waiting = none) ∧
    (replying (some { kind := 177, tag := 9, content := .request .status })).link.waiting =
      some { kind := 177, tag := 9, content := .request .status } ∧
    (replying (some waits)).link.waiting = some { kind := 16, tag := 8, content := .fixed .ok }) ∧
    ((replying (some { kind := 1, tag := 9, content := .unknownKind })).link.waiting =
        some { kind := 1, tag := 9, content := .unknownKind } ∧
      (replying (some { kind := 16, tag := 9, content := .badLength })).link.waiting =
        some { kind := 16, tag := 9, content := .badLength }) :=
  ⟨by decide,
   by decide⟩

/-- A frame whose only byte came at tick 1000, at this tick. -/
def afterGap (t : Nat) : State :=
  { receiving [165] with
    tb := { (receiving [165]).tb with clock := t }
    link := { (receiving [165]).link with rxAt := 1000 } }

theorem witness_BytesMakeAndBreakFrames :
    (((isRunning up.tb = true ∧ gapPassed up = false ∧ up.link.rx = none) ∧
    (isRunning (receiving [165]).tb = true ∧ gapPassed (receiving [165]) = false ∧ (receiving [165]).link.rx = some [165] ∧
      ((2 : Byte).toNat < 3 ∨ 253 < (2 : Byte).toNat) ∧ ((254 : Byte).toNat < 3 ∨ 253 < (254 : Byte).toNat) ∧
      (3 ≤ (3 : Byte).toNat ∧ (3 : Byte).toNat ≤ 253) ∧ (3 ≤ (253 : Byte).toNat ∧ (253 : Byte).toNat ≤ 253)) ∧
    (gapPassed (receiving [165, 3, 17, 1]) = false ∧ (receiving [165, 3, 17, 1]).link.rx = some (165 :: 3 :: [17, 1]) ∧
      [17, 1].length ≠ (3 : Byte).toNat) ∧
    (isRunning (receiving [165, 3, 17, 1, 44]).tb = true ∧
      (receiving [165, 3, 17, 1, 44]).link.rx = some (165 :: 3 :: [17, 1, 44]) ∧
      [17, 1, 44].length = (3 : Byte).toNat ∧ gapPassed (receiving [165, 3, 17, 1, 44]) = false ∧
      (((3 : Byte) :: [17, 1, 44] ++ [190]).map BitVec.toNat).sum % 256 ≠ 0)) ∧
    (isRunning onBackup.tb = false ∧ asRequest (.status 9) = some (9, .status))) ∧
    ((isRunning (afterGap 4277).tb = true ∧ gapPassed (afterGap 4277) = true ∧ gapPassed (afterGap 4276) = false) ∧
      (44 : Byte) ≠ 165) :=
  ⟨⟨(by decide +kernel),
   (by decide)⟩,
   by decide +kernel⟩

theorem witness_RequestBodiesReadBack :
    requestFits (.timeSet 65535 16777215) = true ∧ requestFits (.settingsSet goodSettings) = true := by decide

/-- The device with these bytes of a frame received, a request in reply, and one that waits or not. -/
def receivingBusy (bytes : List Byte) (w : Option Waiting) : State :=
  { receiving bytes with link := { (receiving bytes).link with inReply := some sending, waiting := w } }

theorem witness_FrameEndIsItsRequest :
    (asRequest (.timeGet 300) = some (300, .timeGet) ∧ requestFits .timeGet = true ∧ 300 < 65536 ∧
      isRunning (receiving [165, 3, 17, 1, 44]).tb = true ∧ gapPassed (receiving [165, 3, 17, 1, 44]) = false ∧
      ([17, 1, 44] : List Byte) =
        BitVec.ofNat 8 (kindOf .timeGet) :: BitVec.ofNat 8 (300 / 256) :: BitVec.ofNat 8 300 :: encodeBody .timeGet ∧
      (receiving [165, 3, 17, 1, 44]).link.rx = some (165 :: BitVec.ofNat 8 ([17, 1, 44] : List Byte).length :: [17, 1, 44])) ∧
    (((receiving [165, 3, 1, 0, 9]).link.rx = some (165 :: BitVec.ofNat 8 3 :: [1, 0, 9]) ∧
      ([1, 0, 9] : List Byte) = BitVec.ofNat 8 1 :: BitVec.ofNat 8 (9 / 256) :: BitVec.ofNat 8 9 :: [] ∧
      (receiving [165, 3, 1, 0, 9]).link.inReply = none ∧ gapPassed (receiving [165, 3, 1, 0, 9]) = false ∧
      (receivingBusy [165, 3, 1, 0, 9] none).link.inReply.isSome = true ∧
      (receivingBusy [165, 3, 1, 0, 9] none).link.waiting = none ∧
      (receivingBusy [165, 3, 1, 0, 9] (some waits)).link.waiting.isSome = true) ∧
    (∀ r : Request, kindOf r ≠ 1) ∧
    (∃ r : Request, kindOf r = 16 ∧ requestFits r = true ∧ encodeBody r = [0, 0, 0, 0, 0]) ∧
    (∀ r : Request, kindOf r = 16 → requestFits r = true → encodeBody r ≠ [0])) :=
  ⟨by decide +kernel,
   ⟨by decide +kernel, fun r => by cases r <;> simp [kindOf], ⟨.timeSet 0 0, by decide⟩,
      fun r h _ => by cases r <;> simp [kindOf, encodeBody, num, timeOfDay] at h ⊢⟩⟩

/-- A generator's use that sounds 100 ms of tone 3, a gap and tone 5, and one that is ARMED. -/
def tonedUse (p : GenPhase) : GenUse :=
  { user := .drill, phase := p, steps := [.tone 3 1, .gap 1, .tone 5 1], since := 1000, order := 0 }

theorem witness_ReadsChangeNothing :
    (takesAtOnce up = true ∧ (7 : Building).1 = 7 ∧ 7 < 8 ∧ (15 : LineNo).1 = 15 ∧ 15 < 16 ∧ (0 : Fin 32).1 + 1 = 1 ∧
      (31 : Fin 32).1 + 1 = 32 ∧ (0 = 0 ∨ 32 < 0) ∧ (33 = 0 ∨ 32 < 33) ∧ (1 ≤ 12 ∧ 12 ≤ 12) ∧ (13 = 0 ∨ 12 < 13) ∧
      (15 : PlanNo).1 = 15 ∧ 36524 ≤ 36524 ∧ 36524 < 36525) ∧
    ((65535 < 65536 ∧ 255 < 256 ∧ 7 < 8) ∧ (tonedUse .armed).phase = .armed ∧
      ((tonedUse .sounding).phase ≠ .armed ∧ 1 < (tonedUse .sounding).steps.length ∧
        Config.msTicks 100 ≤ 4277 - (tonedUse .sounding).since ∧ 4277 - (tonedUse .sounding).since < Config.msTicks 200) ∧
      (2 + 1 = (tonedUse .ended).steps.length ∧ Config.msTicks 200 ≤ 10831 - (tonedUse .ended).since)) :=
  ⟨by decide,
   by decide +kernel⟩

theorem witness_ConditionsLeaveOnlyByClear :
    takesAtOnce up = true ∧ (∃ t, exec .secondEnd up = .next t) ∧ Instr.secondEnd ≠ .coldStart ∧
      (∀ tag x, Instr.secondEnd ≠ .conditionsClear tag x) ∧ (∀ x, Instr.secondEnd ≠ .linkByte x) ∧
      (∀ x, Instr.secondEnd ≠ .frameEnd x) ∧ Instr.secondEnd ≠ .replySent ∧ up.dev.conds.getLsbD 0 = true :=
  ⟨by decide, ⟨_, rfl⟩, nofun, nofun, nofun, nofun, nofun, by decide⟩

/-- The main supply is back with the retained state lost. -/
def lost : State := { up with tb := { up.tb with retained := false } }

theorem witness_AttentionSetAndAttn :
    takesAtOnce up = true ∧ up.tb.retained = true ∧ lost.tb.retained = false ∧ lost.tb.vmain = true := by decide

theorem witness_SettingsSetTakesAllOrNothing :
    takesAtOnce up = true ∧ (goodSettings.lateWindow ≤ 300 ∧ goodSettings.bellWindow ≤ 60 ∧
      (10 ≤ goodSettings.announceExpiry ∧ goodSettings.announceExpiry ≤ 3600) ∧
      (10 ≤ goodSettings.pageTalk ∧ goodSettings.pageTalk ≤ 300) ∧ (1 ≤ goodSettings.pageWait ∧ goodSettings.pageWait ≤ 30) ∧
      (∀ b : Building, 1 ≤ goodSettings.retry[b] ∧ goodSettings.retry[b] ≤ 15 ∧ goodSettings.bypass[b] ≤ 1) ∧
      goodSettings.stampMode ≤ 1) ∧
    ¬({ goodSettings with stampMode := 2 } : SettingsArg).stampMode ≤ 1 := by decide

theorem witness_RestartByRequest :
    takesAtOnce up = true ∧
      isRunning ({ up with link := { up.link with inReply := some { sending with restart := true } } } : State).tb = true ∧
      ({ sending with restart := true } : Replying).restart = true := by decide

theorem witness_TimeSetLoadsTheTime :
    takesAtOnce up = true ∧ (36524 < 36525 ∨ 86399 < 0) ∧ (36524 < 0 ∨ 86399 < 86400) ∧ (36524 ≤ 36524 ∧ 86399 ≤ 86399) := by
  decide

theorem witness_TrimSetGovernsTheNextSecond :
    (takesAtOnce (timed 9430 10798) = true ∧ ((-201 : Int) < -200 ∨ 200 < (-201 : Int)) ∧
      ((201 : Int) < -200 ∨ 200 < (201 : Int)) ∧ (-200 ≤ (-200 : Int) ∧ (-200 : Int) ≤ 200) ∧
      (-200 ≤ (200 : Int) ∧ (200 : Int) ≤ 200)) ∧
    (∀ t : State, ∃ u : Nat → State, u 0 = t ∧ ∀ k, exec .secondEnd (u k) = .next (u (k + 1))) ∧
    leads .secondEnd (timed 9430 10798) (fun u => u.tb.time.any fun x => x.sec % 60 = 59) = true :=
  ⟨by decide, fun t => ⟨fun k => Nat.rec t (fun _ x => endSecond x) k, rfl, fun _ => rfl⟩, by decide +kernel⟩

theorem witness_ShiftPlanFillsTheSlot :
    takesAtOnce up = true ∧ up.tb.time = none ∧
      (timed 9424 50712).tb.time = some { day := 9424, sec := 50712 } ∧
      ¬(36524 < 9430 ∨ (10800 < 1 ∨ 86399 < 10800) ∨
        ((-3600 : Int) = 0 ∨ (-3600 : Int) % 60 ≠ 0 ∨ (-3600 : Int) < -7200 ∨ 7200 < (-3600 : Int)) ∨
        (((10800 : Nat) : Int) + -3600 < 0 ∨ 86399 < ((10800 : Nat) : Int) + -3600) ∨
        9430 * 86400 + 10800 ≤ 9424 * 86400 + 50712) ∧
      (36524 < 36525 ∧ (-7260 : Int) < -7200 ∧ ((3600 : Nat) : Int) + -7200 < 0) := by decide

theorem witness_ShiftCancelEmptiesTheSlot :
    takesAtOnce autumnNight = true ∧ (shiftDue autumnNight.tb).isSome = true ∧ autumnNight.tb.retained = true ∧
      (∃ t, exec .secondEnd autumnNight = .next t) ∧ (∃ t, exec .coldStart lost = .next t) ∧
      (∃ t, exec .resetnAssert autumnNight = .next t) ∧
      (isRunning (replying none).tb = true ∧ (replying none).link.waiting = none ∧ autumnNight.link.inReply = none) ∧
      ({ sending with restart := true } : Replying).restart = true :=
  ⟨by decide, by decide, by decide, ⟨_, rfl⟩, ⟨_, rfl⟩, ⟨_, rfl⟩, by decide, rfl⟩

theorem witness_TimeAndStampAreReported :
    (takesAtOnce autumnNight = true ∧ 9430 ≤ 36524 ∧ 10800 ≤ 86399 ∧
      autumnNight.tb.slot = some { day := 9430, stated := 10800, shift := -3600 } ∧
      9430 * 86400 + 10800 ≤ 9430 * 86400 + 10800 ∧ (∃ t, exec (.timeSet 1 9430 10800) autumnNight = .next t)) ∧
    (takesAtOnce up = true ∧ lost.tb.retained = false ∧ lost.tb.vmain = true ∧ (∃ t, exec .coldStart lost = .next t) ∧
      (∃ t, exec .resetnRelease up = .next t)) :=
  ⟨(⟨by decide, by decide, by decide, rfl, by decide, ⟨_, rfl⟩⟩),
   (⟨by decide, rfl, rfl, ⟨_, rfl⟩, ⟨_, rfl⟩⟩)⟩

theorem witness_SecondsEndAndShiftsApply :
    ((up.tb.retained = true ∧ shiftDue up.tb = none ∧ isRunning up.tb = true ∧ isRunning onBackup.tb = false ∧
      onBackup.tb.retained = true ∧ shiftDue onBackup.tb = none) ∧
    (autumnNight.tb.retained = true ∧ autumnNight.tb.time = some { day := 9430, sec := 10799 } ∧
      autumnNight.tb.slot = some { day := 9430, stated := 10800, shift := -3600 } ∧ 10799 + 1 = 10800 ∧
      ({ day := 9430, sec := 7200 } : Stamp) = { day := 9430, sec := ((10800 : Int) + -3600).toNat })) ∧
    ((({ new := some { day := 0, sec := 1 }, minute := false, day := false, step := none } : SecondEvent).new =
        some { day := 0, sec := 1 } ∧
      ({ new := none, minute := false, day := false, step := none } : SecondEvent).new = none) ∧
    (∃ c : Command, c.owner = .lc 2) ∧ (∃ c : Command, c.owner = .ta ∧ c.op = .stage 1) ∧
      (∃ c : Command, c.owner = .ta ∧ c.op = .mute) ∧ (∃ c : Command, c.owner = .dc) ∧
      (∃ c : Command, c.owner = .ah ∧ c.op = .mute) ∧ (∃ c : Command, c.owner = .ah ∧ c.op = .lamp .on)) :=
  ⟨by decide,
   ⟨by decide, ⟨{ addr := 4, op := .probe, owner := .lc 2, serial := 0 }, rfl⟩,
      ⟨{ addr := 1, op := .stage 1, owner := .ta, serial := 0 }, rfl, rfl⟩,
      ⟨{ addr := 1, op := .mute, owner := .ta, serial := 0 }, rfl, rfl⟩,
      ⟨{ addr := 9, op := .lamp .on, owner := .dc, serial := 0 }, rfl⟩,
      ⟨{ addr := 1, op := .mute, owner := .ah, serial := 0 }, rfl, rfl⟩,
      ⟨{ addr := 9, op := .lamp .on, owner := .ah, serial := 0 }, rfl, rfl⟩⟩⟩

/-- A RESTART held by RESETN. -/
def restarting : State :=
  { up with tb := { up.tb with resetn := true, restart := some { began := none, spanned := false, shifted := false } } }

theorem witness_EntryToBackupWritesTheStamp :
    isRunning up.tb = true ∧ up.link.settings.stampMode = .last ∧
      (isPowered restarting.tb = true ∧ restarting.tb.restart.isSome = true) ∧ isPowered onBackup.tb = false := by decide

/-- The main supply has been back for 2 s. -/
def restorable : State := { onBackup with tb := { onBackup.tb with vmain := true } }

theorem witness_SuppliesAndRestore :
    (onBackup.tb.supply = .backup ∧ onBackup.tb.vmain = false ∧ restorable.tb.supply = .backup ∧ restorable.tb.vmain = true ∧
      up.tb.supply = .main) ∧
    (restorable.tb.retained = true ∧ restorable.tb.resetn = false) ∧
    (({ restorable with tb := { restorable.tb with resetn := true } } : State).tb.resetn = true) ∧
    (up.tb.supply = .main ∨ up.tb.retained = false ∨ up.tb.vmain = false) := by decide

theorem witness_ColdStartClearsTheDevice :
    (lost.tb.retained = false ∧ lost.tb.vmain = true ∧ lost.tb.resetn = false) ∧
    (({ lost with tb := { lost.tb with resetn := true } } : State).tb.resetn = true) ∧
    (up.tb.retained = true ∨ up.tb.vmain = false) := by decide

theorem witness_ResetnHoldsARestart :
    (isRunning up.tb = true ∧ up.tb.resetn = false) ∧
    restarting.tb.restart = some { began := none, spanned := false, shifted := false } ∧ up.tb.restart = none ∧
    (restarting.tb.resetn = true ∨ isRunning restarting.tb = false) := by decide

/-- The device with a second's end waiting. -/
def ticking : State := { up with pending := [.secondEnd] }

theorem witness_EveryStepKeepsTimeAndLinkLawful :
    timeLawful ticking.tb = true ∧ linkLawful ticking.link = true ∧ ∃ t, step ticking = .next t :=
  ⟨by decide, by decide, ⟨_, rfl⟩⟩

/-! ### Buses -/

/-- Bus 3 of section 2.10. -/
def bus3 : Bus := { Bus.cold with rows := stations }

def field3 : State := withBus 3 bus3 up

/-- A command to station 9 and its transaction. -/
def lampOn : Command := { addr := 9, op := .lamp .on, owner := .dc, serial := 0 }

def lampTry : Transaction := { addr := 9, what := .command lampOn, orphan := false, carried := false }

/-- Driver 3.4 drives its line up to this tick. -/
def drivingTo (t : Nat) : List Station := [{ station 4 .lineDriver with drivingUntil := some t }, station 9 .marshalPanel]

/-- Bus 3 with a poll of its panel due since tick 0. -/
def pollIsDue : Bus := { bus3 with rows := [{ station 9 .marshalPanel with dueAt := some 0 }] }

theorem witness_QueuesTakeAndLoseCommands :
    ((rowAt up.dev.bus[(3 : Building)] 1 = none) ∧
    (rowAt field3.dev.bus[(3 : Building)] 9 = some (station 9 .marshalPanel) ∧
      (station 9 .marshalPanel).kind ≠ opKind (.stage 1) ∧ (station 9 .marshalPanel).kind = opKind (.lamp .on) ∧
      (station 9 .marshalPanel).state ≠ .offline ∧ ({ station 9 .marshalPanel with state := .offline } : Station).state = .offline ∧
      (field3.dev.bus[(3 : Building)]).alarm = false ∧
      (field3.dev.bus[(3 : Building)]).queue.length < 6) ∧
    ((({ bus3 with alarm := true } : Bus).alarm = true ∧ isStage (.stage 1) = true) ∧ isStage .mute = false ∧
      2 ≤ ([0, 1] : List Nat).length ∧ 6 ≤ ([0, 1, 2, 3, 4, 5] : List Nat).length)) ∧
    (((envOf restarting).running = false ∧ lampTry.what = .command lampOn ∧
        ({ bus3 with wire := .attempt lampTry } : Bus).wire ≠ .idle ∧ (envOf up).running = true ∧ bus3.wire = .idle ∧
        ({ bus3 with applyPending := true } : Bus).applyPending = true ∧ bus3.applyPending = false) ∧
      (({ bus3 with retries := [lampTry] } : Bus).retries = [] ++ lampTry :: [] ∧
        (rowAt bus3 9).bind (fun x => x.drivingUntil) = none) ∧
      (rowAt ({ bus3 with rows := drivingTo 5 } : Bus) 4 = some { station 4 .lineDriver with drivingUntil := some 5 } ∧
        (envOf up).clock < 5) ∧
      (pollIsDue.rows = [{ station 9 .marshalPanel with dueAt := some 0 }] ∧ pollIsDue.queue = [] ∧
        pollIsDue.retries = [] ∧ (rowAt pollIsDue 9).bind (fun x => x.drivingUntil) = none ∧
        (envOf up).settings.bypass[(3 : Building)] = .bypass) ∧
      ((∀ x ∈ bus3.rows, x.dueAt = none) ∧ bus3.queue = [] ∧ bus3.retries = [] ∧
        ({ bus3 with queue := [lampOn] } : Bus).queue = lampOn :: [])) :=
  ⟨by decide +kernel,
   by decide +kernel⟩

theorem witness_StationsActOnCommandsAndTheirOwn :
    ((freshField 4).latch = .neg ∧ (freshField 4).latch ≠ .pos) ∧
    (isPowered field3.tb = true ∧ rowOfKind field3.dev.bus[(3 : Building)] .marshalPanel = some (station 9 .marshalPanel)) ∧
    (isPowered onBackup.tb = false ∧ rowOfKind up.dev.bus[(3 : Building)] .marshalPanel = none) ∧
    ((fieldAt ({ bus3 with field := [{ freshField 4 with probe := .running }] } : Bus) 4).probe = .running ∧
      (fieldAt bus3 4).probe ≠ .running ∧ 4 ≠ (station 9 .marshalPanel).addr) := by decide +kernel

/-- Building 3's trunk with this holder and latest stage. -/
def rowed (h : Holder) (st : Option Stage) : State :=
  { field3 with dev := setRow 3 { Row.cold with holder := h, map := 1, stage := st } field3.dev }

/-- The alarm hold in force. -/
def held : State := { up with dev := { up.dev with ah := { up.dev.ah with hold := true, record := some 1 } } }

theorem witness_StationConfigKeepsTheTable :
    ((takesAtOnce held = true ∧ held.dev.ah.hold = true) ∧
    (takesAtOnce field3 = true ∧ field3.dev.ah.hold = false ∧ (7 < 8 ∧ 0 < 1 ∧ 30 < 31 ∧ 3 < 4)) ∧
    (stationKindCode .zoneSwitch = 0 ∧ (rowAt field3.dev.bus[(3 : Building)] 1).isSome = true ∧
      2 ≤ countKind field3.dev.bus[(3 : Building)] .lineDriver) ∧
    (rowAt up.dev.bus[(3 : Building)] 30 = none ∧ countKind up.dev.bus[(3 : Building)] .lineDriver < 2 ∧
      countKind up.dev.bus[(3 : Building)] .zoneSwitch < 1) ∧
    rowAt field3.dev.bus[(3 : Building)] 9 = some (station 9 .marshalPanel)) ∧
    (rowAt field3.dev.bus[(3 : Building)] 1 = some (station 1 .zoneSwitch) ∧ (station 1 .zoneSwitch).kind = .zoneSwitch ∧
      (station 4 .lineDriver).kind = .lineDriver) :=
  ⟨by decide +kernel,
   by decide +kernel⟩

/-- Panel 3.9 has a LAMP in the queue, one between two attempts and this on the wires; driver 3.4 has a probe poll due. -/
def panelBusy (w : Wire) : State :=
  withBus 3 { bus3 with
    rows := [{ station 4 .lineDriver with probeDue := true }, station 9 .marshalPanel]
    queue := [lampOn], retries := [lampTry], wire := w } up

theorem witness_StationConfigKeepsTheTable_removal :
    (∀ w, takesAtOnce (panelBusy w) = true ∧ (panelBusy w).dev.ah.hold = false ∧
      (panelBusy w).dev.bus[(3 : Building)].wire = w ∧ (panelBusy w).dev.bus[(3 : Building)].queue = [lampOn] ∧
      (panelBusy w).dev.bus[(3 : Building)].retries = [lampTry] ∧
      rowAt (panelBusy w).dev.bus[(3 : Building)] 9 = some (station 9 .marshalPanel) ∧
      rowAt (panelBusy w).dev.bus[(3 : Building)] 4 = some { station 4 .lineDriver with probeDue := true }) ∧
    lampTry.addr = 9 ∧ lampTry.what = .command lampOn ∧ (station 9 .marshalPanel).probeAt = none ∧
      (station 9 .marshalPanel).probeDue = false :=
  ⟨fun _ => ⟨rfl, rfl, rfl, rfl, rfl, rfl, rfl⟩, rfl, rfl, rfl, rfl⟩

/-- Bus 3 with a LAMP on its wires. -/
def lampSent : Transaction :=
  { addr := 9, what := .command { addr := 9, op := .lamp .flash, owner := .dc, serial := 0 }, orphan := false, carried := false }

def lampWire : State := withBus 3 { bus3 with wire := .attempt lampSent } up

/-- Bus 3 with a transaction on its wires, its panel OFFLINE. -/
def lostPanel (t : Transaction) : State :=
  withBus 3 { bus3 with rows := [{ station 9 .marshalPanel with state := .offline }], wire := .attempt t } up

/-- An IMPULSE for driver 3.4 on the wires. -/
def impulseSent : Transaction :=
  { addr := 4, what := .command { addr := 4, op := .impulse .pos 500, owner := .lc 2, serial := 0 }, orphan := false
    carried := true }

theorem witness_AttemptsEndAndTellTheOwner :
    ((((isPowered up.tb = true ∧ up.dev.agenda = [] ∧ isPowered onBackup.tb = false ∧
      ∀ t, (up.dev.bus[(3 : Building)]).wire ≠ .attempt t) ∧
    ((lampWire.dev.bus[(3 : Building)]).wire = .attempt lampSent ∧
      rowAt lampWire.dev.bus[(3 : Building)] 9 = some (station 9 .marshalPanel) ∧ lampSent.orphan = false ∧
      lampSent.carried = false ∧ (station 9 .marshalPanel).state ≠ .offline ∧
      (station 9 .marshalPanel).fails + 1 ≤ (envOf lampWire).settings.retry[(3 : Building)] ∧
      (envOf lampWire).settings.retry[(3 : Building)] < ({ station 9 .marshalPanel with fails := 4 } : Station).fails + 1)) ∧
    ((((lostPanel lampSent).dev.bus[(3 : Building)]).wire = .attempt lampSent ∧
        rowAt (lostPanel lampSent).dev.bus[(3 : Building)] 9 = some { station 9 .marshalPanel with state := .offline } ∧
        ({ lampSent with what := .poll false } : Transaction).what = .poll false ∧
        lampSent.what = .command { addr := 9, op := .lamp .flash, owner := .dc, serial := 0 }) ∧
      (((withBus 3 { bus3 with wire := .attempt impulseSent } up).dev.bus[(3 : Building)]).wire = .attempt impulseSent ∧
        impulseSent.carried = true ∧ (envOf up).running = true ∧ (envOf restarting).running = false ∧
        (stationTake (.impulse .pos 500) false (fieldAt bus3 4)).2 = some .driven ∧
        rowAt bus3 4 = some (station 4 .lineDriver)) ∧
      (({ lampSent with orphan := true } : Transaction).orphan = true ∧
        ({ lampSent with orphan := true } : Transaction).carried = false))) ∧
    (rowAt bus3 4 = some (station 4 .lineDriver) ∧
      ({ impulseSent with carried := false } : Transaction).carried = false ∧
      (opKind .probe = .lineDriver ∧ (stationTake .probe false (fieldAt bus3 4)).1.probe = .running))) ∧
    (({ lampSent with orphan := true, what := .poll true } : Transaction).what = .poll true ∧
      ({ lampSent with orphan := true, what := .poll true } : Transaction).carried = false ∧
      rowAt ({ bus3 with rows := [] } : Bus) lampSent.addr = none) :=
  ⟨⟨⟨⟨⟨by decide, rfl, by decide, fun _ h => nomatch h⟩, by decide +kernel⟩,
   by decide +kernel⟩,
   by decide +kernel⟩,
   by decide +kernel⟩

/-- Bus 3 with this row only and a transaction on its wires. -/
def wired (r : Station) (t : Transaction) : State := withBus 3 { bus3 with rows := [r], wire := .attempt t } up

theorem witness_AttemptsEndAndTellTheOwner_kinds :
    (∀ (t : Transaction) (r : Station), (wired r t).dev.bus[(3 : Building)].wire = .attempt t) ∧
    (rowAt (wired { station 9 .marshalPanel with state := .unknown } lampTry).dev.bus[(3 : Building)] 9 =
        some { station 9 .marshalPanel with state := .unknown } ∧
      lampTry = { addr := 9, what := .command lampOn, orphan := false, carried := false }) ∧
    (rowAt (wired { station 4 .lineDriver with fails := 4 }
          { lampTry with addr := 4, what := .poll true }).dev.bus[(3 : Building)] 4 =
        some { station 4 .lineDriver with fails := 4 } ∧
      rowAt (wired { station 1 .zoneSwitch with fails := 4 }
          { lampTry with addr := 1, what := .poll false }).dev.bus[(3 : Building)] 1 =
        some { station 1 .zoneSwitch with fails := 4 } ∧
      (envOf up).settings.retry[(3 : Building)] < 4 + 1 ∧ 3 + 1 ≤ (envOf up).settings.retry[(3 : Building)]) :=
  ⟨fun _ _ => rfl, by decide +kernel, by decide +kernel⟩

/-- A probe poll of driver 3.4 on the wires. -/
def polled : State :=
  withBus 3
    { bus3 with wire := .attempt { addr := 4, what := .poll true, orphan := false, carried := false } } up

/-- A poll of panel 3.9 on the wires. -/
def panelPolled : State :=
  withBus 3 { bus3 with wire := .attempt { addr := 9, what := .poll false, orphan := false, carried := false } } up

/-- Bus 3 with a probe poll of driver 3.4 due at this tick, and a scheduled poll at that tick. -/
def pollsAt (t u : Option Nat) : State :=
  withBus 3 { bus3 with rows := [{ station 4 .lineDriver with probeAt := t, pollAt := u }] } up

theorem witness_MarksAndPollsOnTheBus :
    (((isPowered field3.tb = true ∧ isRunning field3.tb = true ∧ isPowered onBackup.tb = false ∧ isRunning onBackup.tb = false) ∧
    (withBus 3 { bus3 with wire := .applyMark } up).dev.bus[(3 : Building)].wire = .applyMark ∧
    (field3.dev.bus[(3 : Building)]).wire ≠ .applyMark ∧
    (rowAt ({ bus3 with rows := [{ station 9 .marshalPanel with pollAt := some 0 }] } : Bus) 9 =
        some { station 9 .marshalPanel with pollAt := some 0 } ∧
      ({ station 9 .marshalPanel with pollAt := some 0 } : Station).probeAt = none) ∧
    (polled.dev.bus[(3 : Building)].wire =
        .attempt { addr := 4, what := .poll true, orphan := false, carried := false } ∧
      rowAt polled.dev.bus[(3 : Building)] 4 = some (station 4 .lineDriver) ∧
      fieldAt polled.dev.bus[(3 : Building)] 4 = freshField 4)) ∧
    (panelPolled.dev.bus[(3 : Building)].wire =
        .attempt { addr := 9, what := .poll false, orphan := false, carried := false } ∧
      (station 9 .marshalPanel).kind = .marshalPanel ∧ (station 4 .lineDriver).kind ≠ .marshalPanel ∧ 4 ≠ 0)) ∧
    ((∀ t u, rowAt (pollsAt t u).dev.bus[(3 : Building)] 4 =
        some { station 4 .lineDriver with probeAt := t, pollAt := u }) ∧
      isPowered polled.tb = true ∧ isRunning (pollsAt (some 5) (some 5)).tb = true) :=
  ⟨⟨by decide +kernel,
   by decide +kernel⟩,
   ⟨fun _ _ => rfl, by decide +kernel⟩⟩

/-- Bus 3 with its panel ONLINE, last polled at tick 0, the next poll at this tick; the drill-fast flag as given. -/
def awaitsPoll (t : Nat) (fast : Bool) : Bus :=
  { bus3 with rows := [{ station 9 .marshalPanel with pollAt := some t, lastPoll := some 0 }], drillFast := fast }

theorem witness_MarksAndPollsOnTheBus_fastFlags :
    (∀ t fast, (withBus 3 (awaitsPoll t fast) up).dev.bus[(3 : Building)] = awaitsPoll t fast) ∧
    (∀ t fast, (awaitsPoll t fast).rows[0]? =
      some { station 9 .marshalPanel with pollAt := some t, lastPoll := some 0 }) ∧
    ((awaitsPoll 983040 false).drillFast ≠ true ∧ (awaitsPoll 65536 true).drillFast ≠ false ∧
      (awaitsPoll 65536 true).alarmFast = false ∧ (awaitsPoll 65536 true).drillFast = true) ∧
    ((station 9 .marshalPanel).kind = .marshalPanel ∧ (station 9 .marshalPanel).state = .online ∧
      (station 4 .lineDriver).kind ≠ .marshalPanel ∧ ((envOf up).clock < 0 + 65536 ∧ (envOf up).clock < 0 + 983040)) ∧
    (65536 ≤ 0 + 65536 ∧ 0 + 65536 < 65537 ∧ 0 + 65536 < 983040 ∧
      0 + 65536 ≤ ({ envOf up with clock := 65536 } : Env).clock ∧
      0 + 983040 ≤ ({ envOf up with clock := 983040 } : Env).clock) :=
  ⟨fun _ _ => rfl, fun _ _ => rfl, by decide +kernel, by decide +kernel, by decide⟩

/-- A drill-fast flag that is set brings the panel's poll to 2 s after the last one; cleared, to 30 s after it (R29). -/
theorem test_fast_flag_moves_the_poll :
    rowAt (setDrillFast (envOf up) 3 true (withBus 3 (awaitsPoll 983040 false) up).dev).bus[(3 : Building)] 9 =
        some { station 9 .marshalPanel with pollAt := some 65536, lastPoll := some 0 } ∧
      rowAt (setDrillFast (envOf up) 3 false (withBus 3 (awaitsPoll 65536 true) up).dev).bus[(3 : Building)] 9 =
        some { station 9 .marshalPanel with pollAt := some 983040, lastPoll := some 0 } := by decide +kernel

theorem witness_EveryStepKeepsQueuesAndCollections :
    queuesLawful ticking.dev = true ∧ capsLawful ticking.dev = true ∧ ∃ t, step ticking = .next t :=
  ⟨by decide +kernel, by decide +kernel, ⟨_, rfl⟩⟩

/-! ### Clock lines -/

/-- Line 2 on bus 3, due for an impulse: NEG, with the pace count at R. -/
def catching : State := withLine (some { autumnLine with state := .advance, pos := some 178, pol := some .neg }) field3

/-- An IMPULSE of line 2. -/
def impulseOf2 : Command := { addr := 4, op := .impulse .pos 500, owner := .lc 2, serial := 0 }

/-- Line 2 with a probe in this stage. -/
def probing (st : ProbeStage) : Line := { autumnLine with probe := some (.host, st) }

/-- Bus 3 with six commands in its queue, with its drivers OFFLINE, and in ALARM mode. -/
def fullBus : Bus := { bus3 with queue := List.replicate 6 { addr := 9, op := .lamp .on, owner := .dc, serial := 0 } }

def offBus : Bus := { bus3 with rows := bus3.rows.map fun x => { x with state := .offline } }

theorem witness_LinesFollowTheirTarget :
    ((({ autumnLine with enabled := false } : Line).enabled = false ∧ autumnLine.enabled = true ∧
      ({ autumnLine with pos := none } : Line).pos = none ∧ autumnLine.pos = some 179 ∧ autumnLine.view = .online ∧
      ({ autumnLine with view := .offline } : Line).view ≠ .online ∧ autumnLine.probe = none ∧ autumnLine.fault = none ∧
      179 < autumnLine.span ∧
      ((661 : Nat) : Int) = ((7200 / 60 % autumnLine.span : Nat) - ((179 : Nat) : Int)) % (autumnLine.span : Int)) ∧
    (catching.dev.lines[(2 : LineNo)] = some { autumnLine with state := .advance, pos := some 178, pol := some .neg } ∧
      autumnLine.inFlight = none ∧ autumnLine.catchUp ≤ autumnLine.pace ∧ autumnLine.state ≠ .advance ∧
      (enqueue 3 4 (.impulse .pos 500) (.lc 2) catching.dev).1 = .accepted 0) ∧
    autumnLine.pol ≠ some .neg ∧ autumnLine.pol = some .pos) ∧
    (((withLine (some autumnLine) field3).dev.lines[(2 : LineNo)] = some autumnLine ∧
        (enqueue 3 4 .probe (.lc 2) (withBus 3 fullBus up).dev).1 = .queueFull ∧
        (enqueue 3 4 (.impulse .neg 500) (.lc 2) (withBus 3 fullBus up).dev).1 = .queueFull ∧
        (enqueue 3 4 (.impulse .neg 500) (.lc 2) (withBus 3 offBus up).dev).1 = .stationOffline ∧
        (enqueue 3 4 .probe (.lc 2) (withBus 3 offBus up).dev).1 = .stationOffline ∧
        (enqueue 3 4 (.impulse .neg 500) (.lc 2) up.dev).1 = .notConfigured ∧
        (enqueue 3 4 .probe (.lc 2) up.dev).1 = .notConfigured ∧ (enqueue 3 4 .probe (.lc 2) field3.dev).1 = .accepted 0) ∧
      ((∀ st, (probing st).probe = some (.host, st)) ∧ (probing .pending).inFlight = none ∧
        ({ probing .pending with inFlight := some .pos } : Line).inFlight.isSome = true ∧
        ProbeStage.sent ≠ .pending ∧ ProbeStage.reading ≠ .sent ∧ (∀ o, autumnLine.probe ≠ some (o, .reading))) ∧
      (autumnLine.building ≠ 2 ∧ autumnLine.building = 3 ∧ autumnLine.addr = impulseOf2.addr ∧
        impulseOf2.op = .impulse .pos 500 ∧ ({ impulseOf2 with op := .probe } : Command).op = .probe) ∧
      (∀ (j : LineNo) (z : Line), j < 2 → (withLine (some autumnLine) field3).dev.lines[j] = some z →
        ¬(z.building = autumnLine.building ∧ z.addr = autumnLine.addr)) ∧
      (∀ (j : LineNo) (z : Line), up.dev.lines[j] = some z → ¬(z.building = 3 ∧ z.addr = 4))) :=
  ⟨by decide +kernel,
   ⟨by decide +kernel, ⟨fun _ => rfl, rfl, rfl, nofun, nofun, fun _ h => nomatch h⟩, by decide +kernel, fun j z h e => (by
      have all : ∀ j : LineNo, j < 2 → (withLine (some autumnLine) field3).dev.lines[j] = none := by decide +kernel
      exact absurd ((all j h).symm.trans e) (Option.some_ne_none z).symm), fun j z e => (by
      have all : ∀ j : LineNo, up.dev.lines[j] = none := by decide +kernel
      exact absurd ((all j).symm.trans e) (Option.some_ne_none z).symm)⟩⟩

theorem witness_LineRequests :
    (takesAtOnce field3 = true ∧ (15 < 16 ∧ 7 < 8 ∧ 30 < 31) ∧ ((15 : LineNo).1 = 15 ∧ (3 : Building).1 = 3) ∧
    ((some 720 = some 720 ∨ some 720 = some 1440) ∧ 2 * 360 ≤ (some 720).getD 0 ∧ 1 ≤ 2 ∧ 2 ≤ 10 ∧ 100 ≤ 500 ∧ 500 ≤ 2000 ∧
      500 % 100 = 0 ∧ 500 < 2 * 1000) ∧
    ((catching.dev.lines[(2 : LineNo)]).any (fun l => l.inFlight.isSome || l.probe.isSome) = false ∧
      ({ autumnLine with inFlight := some .pos } : Line).inFlight.isSome = true) ∧
    (rowAt field3.dev.bus[(3 : Building)] 4 = some (station 4 .lineDriver) ∧
      rowAt field3.dev.bus[(3 : Building)] 2 = none ∧
      ∃ l, catching.dev.lines[(2 : LineNo)] = some l ∧ l.building = 3 ∧ l.addr = 4) ∧
    (∀ (j : LineNo) (l : Line), j ≠ 2 → field3.dev.lines[j] = some l → ¬(l.building = 3 ∧ l.addr = 4)) ∧
    field3.dev.lines[(2 : LineNo)] = none) ∧
    (takesAtOnce catching = true ∧ (15 < 16 ∧ 23 < 24 ∧ 59 < 60) ∧ up.dev.lines[(2 : LineNo)] = none ∧
      catching.dev.lines[(2 : LineNo)] = some { autumnLine with state := .advance, pos := some 178, pol := some .neg } ∧
      autumnLine.inFlight = none ∧ ({ autumnLine with inFlight := some .pos } : Line).inFlight.isSome = true ∧
      ({ autumnLine with probe := some (.host, .sent) } : Line).probe.isSome = true ∧
      autumnLine.state ≠ .disabled ∧ autumnLine.state ≠ .unset ∧ autumnLine.view = .online ∧ autumnLine.probe = none ∧
      ({ autumnLine with view := .unknown } : Line).view ≠ .online) :=
  ⟨(⟨by decide, by decide, by decide, by decide, by decide +kernel, by
    exact ⟨by decide +kernel, by decide +kernel, _, rfl, rfl, rfl⟩, fun j l _ h => (by
    have all : ∀ j : LineNo, field3.dev.lines[j] = none := by decide +kernel
    exact absurd ((all j).symm.trans h) (Option.some_ne_none l).symm), by decide +kernel⟩),
   (by decide +kernel)⟩

theorem witness_EveryStepKeepsTheLinesLawful :
    linesLawful ({ catching with pending := [.secondEnd] } : State).dev = true ∧
      ∃ t, step { catching with pending := [.secondEnd] } = .next t :=
  ⟨by decide +kernel, ⟨_, rfl⟩⟩

/-! ### Timetable -/

/-- A ring entry, not of today's plan. -/
def bell : Entry := { slot := 0, time := 28800, kind := .ring 1, zones := 1, day := none }

def planned (p : Timetable) : State := { up with dev := { up.dev with tt := p } }

/-- Plan 3 holds one bell and is today's plan, with the bell at this mark. -/
def belled (m : Mark) : State :=
  planned { Timetable.cold with
    plans := put Timetable.cold.plans 3 [{ bell with day := some { mark := m, late := false, pass := none } }]
    todayPlan := some (.plan 3) }

theorem witness_EntryRequests :
    takesAtOnce (belled .pending) = true ∧ (15 < 16 ∧ 86399 < 86400) ∧ ((1 ≤ 32 ∧ 32 ≤ 32) ∧ (1 ≤ 64 ∧ 64 ≤ 64) ∧ 32 < 33 ∧ 1 < 2) ∧
    (∃ x ∈ (belled .pending).dev.tt.plans[(3 : PlanNo)], x.time = 28800 ∧ x.zones &&& 1 ≠ 0) ∧
    (∀ x ∈ (belled .pending).dev.tt.plans[(3 : PlanNo)], x.time = 28800 → x.zones &&& 2 = 0) ∧
    (((belled .pending).dev.tt.plans[(3 : PlanNo)]).length < 96 ∧ freeSlots (belled .pending).dev ≠ []) ∧
    96 ≤ (List.replicate 96 bell).length ∧
    ((belled .pending).dev.tt.plans[(3 : PlanNo)]).length ≤ 1 ∧
    ((belled .sent).dev.tt.todayPlan = some (.plan 3) ∧
      (∃ x ∈ (belled .sent).dev.tt.plans[(3 : PlanNo)], markOf x = some .sent)) ∧
    (∀ x ∈ (belled .pending).dev.tt.plans[(3 : PlanNo)], markOf x ≠ some .sent) := by decide +kernel

theorem witness_CalendarResolvesDates :
    takesAtOnce september = true ∧
    (∃ i : Fin 7, 15 < (Vector.replicate 7 16)[i] ∧ (Vector.replicate 7 16)[i] ≠ 65535) ∧
    (∀ i : Fin 7, (Vector.replicate 7 15)[i] ≤ 15 ∨ (Vector.replicate 7 15)[i] = 65535) ∧
    (36524 < 36525 ∧ 0 + 366 < 367 ∧ (15 < 16 ∧ 16 ≠ 65535)) ∧
    (0 ≤ 36524 ∧ 366 ≤ 36524 ∧ 0 ≤ 366 ∧ 366 ≤ 0 + 366) ∧
    (∃ q ∈ september.dev.tt.exceptions, q.first ≤ 9431 ∧ 9428 ≤ q.last) ∧
    (∀ q ∈ september.dev.tt.exceptions, 9431 < q.first ∨ q.last < 9429) ∧
    (40 ≤ (List.replicate 40 0).length ∧ september.dev.tt.exceptions.length < 40) ∧
    (∀ q ∈ september.dev.tt.exceptions, q.first ≠ 9426) ∧ (∃ q ∈ september.dev.tt.exceptions, q.first = 9424) ∧
    september.dev.tt.exceptions =
      [{ first := 9393, last := 9393, plan := .plan 5 }] ++ { first := 9424, last := 9428, plan := .silent } :: [] ∧
    (9424 ≤ 9424 ∧ 9428 ≤ 9428) ∧
    (∀ x ∈ september.dev.tt.exceptions, 9389 < x.first ∨ x.last < 9389) := by decide +kernel

/-! ### Zones and trunks -/

/-- Trunk 3 held by run 1 at RING priority, with this map granted. -/
def rung : Row := { Row.cold with holder := .claimant (.ring 0) .ring, map := 1 }

def trunk3 (x : Row) (s : State) : State :=
  { s with dev := { s.dev with ta := { s.dev.ta with rows := put s.dev.ta.rows 3 x } } }

theorem witness_ZonesAndQuiets :
    takesAtOnce (timed 100 3600) = true ∧ 1 < 2 ∧ up.tb.time = none ∧
      (timed 100 3600).tb.time = some { day := 100, sec := 3600 } ∧
      (100 * 86400 + 3600 ≤ 100 * 86400 + 3600 ∧ 100 * 86400 + 3600 + 86400 < 101 * 86400 + 3601) ∧
      ¬(36524 < 101 ∨ 86399 < 3600 ∨ 101 * 86400 + 3600 ≤ 100 * 86400 + 3600 ∨
        100 * 86400 + 3600 + 86400 < 101 * 86400 + 3600) ∧
      ((trunk3 rung (timed 100 3600)).dev.ta.rows[(3 : Building)]).holder = .claimant (.ring 0) .ring ∧
      zoneMap 0x0000000001000000 3 &&& rung.map ≠ 0 ∧ zoneMap 1 3 = 0 := by decide +kernel

theorem witness_ClaimsAreFilteredAndDecided :
    (∀ z : Fin 8, (0b10 : ZoneMap).getLsbD z.1 =
      ((0b110 : ZoneMap).getLsbD z.1 && (filtered.ta.zones[zoneIndex 1 z]).enabled &&
        !(decide (ClaimPrio.ring = .ring ∨ ClaimPrio.ring = .normal) && (filtered.ta.zones[zoneIndex 1 z]).quiet.isSome))) ∧
    (∃ z : Fin 8, (1 : ZoneMap).getLsbD z.1 = true ∧ (filtered.ta.zones[zoneIndex 6 z]).enabled = true) ∧
    (∀ z : Fin 8, (0b110 : ZoneMap).getLsbD z.1 = true → (filtered.ta.zones[zoneIndex 6 z]).enabled = false) ∧
    (switchReachable up.dev 3 = false ∧ switchReachable field3.dev 3 = true) ∧
    (({ rung with holder := .alarm } : Row).holder = .alarm ∧ rung.holder ≠ .alarm ∧
      ({ rung with settling := .awaiting } : Row).settling ≠ .settled ∧ rung.settling = .settled ∧
      Row.cold.holder = .none ∧ (Claimant.ring 0 ≠ .drill)) ∧
    (prioRank .ring < prioRank .urgent ∧ prioRank .ring ≤ prioRank .ring) := by decide +kernel

theorem witness_EveryStepKeepsTheTrunksForced :
    ((({ held with pending := [.secondEnd] } : State).tb.restart.isSome || trunksForced held.dev) = true ∧
      held.dev.ah.hold = true ∧ ∃ t, step { held with pending := [.secondEnd] } = .next t) ∧
    (holdClears held.dev = true ∧ ∃ t, step { held with pending := [.fireLevelChange true] } = .next t) :=
  ⟨⟨by decide +kernel, rfl, ⟨_, rfl⟩⟩,
   ⟨by decide +kernel, _, rfl⟩⟩

/-! ### Ring runs -/

/-- Pattern 1 is a tone and a gap. -/
def tuned : State :=
  { up with dev := { up.dev with rs := { up.dev.rs with patterns := put up.dev.rs.patterns 0 [.tone 8 127, .gap 1] } } }

/-- A bell that was passed at this moment. -/
def pass1 : EntryRef := { plan := 3, slot := 0, pass := { day := 100, sec := 28800 } }

/-- A run that claims its buildings. -/
def run1 : Run :=
  { state := .claiming, origin := .ringNow, pattern := 1, steps := [.tone 8 127], zones := 1, due := none, count := 5,
    window := 20, at_ := put (Vector.replicate 8 none) 0 (some .waiting), sounded := 0, gen := none, order := 0, ending := none,
    outcome := none, endTime := none, released := 0 }

def ringing (r : Run) : State :=
  { tuned with dev := { tuned.dev with rs := { tuned.dev.rs with runs := put tuned.dev.rs.runs 0 (some r) } } }

theorem witness_RunsAreMadeAndStopped :
    ((((takesAtOnce tuned = true ∧ tuned.dev.ah.hold = false ∧ held.dev.ah.hold = true ∧
      tuned.dev.rs.patterns[(0 : Fin 32)] ≠ [] ∧ tuned.dev.rs.patterns[(1 : Fin 32)] = []) ∧
    (∀ r : RunIx, ∃ run, (Vector.replicate 12 (some run1))[r] = some run ∧ ¬(run.state = .done ∧ run.released = 0)) ∧
    (∀ run, (ringing run1).dev.rs.runs[(1 : RunIx)] = some run → run.state = .done ∧ run.released = 0) ∧
    (∀ q : RunIx, q < 1 →
      ∃ run, (ringing run1).dev.rs.runs[q] = some run ∧ ¬(run.state = .done ∧ run.released = 0))) ∧
    ((takesAtOnce (ringing run1) = true ∧ (0 < 1 ∧ 12 < 13) ∧ (11 : RunIx).1 + 1 = 12) ∧
    up.dev.rs.runs[(0 : RunIx)] = none ∧ (ringing run1).dev.rs.runs[(0 : RunIx)] = some run1 ∧ run1.state ≠ .done ∧
    (((run1.at_[(0 : Building)]).any fun s => isHolding s || isWanting s) = true ∧ run1.sounded = 0 ∧
      (∀ b : Building, run1.at_[b] ≠ some .done)) ∧
    (DropReason.failed ∈ [DropReason.failed, .held, .preempted]) ∧ bsHas 1 0 = true)) ∧
    (((ringing run1).dev.rs.runs[(0 : RunIx)] = some run1 ∧ ([0] : List Building).Nodup ∧
        (answerFor (ringing run1).dev (.ring 0) .ring false 1 0).2 = .failed ∧
        (answerFor field3.dev (.ring 0) .ring false 0x1000000 3).2 = .granted ∧
        (answerFor (trunk3 { rung with holder := .claimant (.announce 1) .normal } field3).dev (.ring 0) .ring false
          0x1000000 3).2 = .wait ∧
        (answerFor (trunk3 { rung with holder := .claimant (.announce 1) .urgent } field3).dev (.ring 0) .ring false
          0x1000000 3).2 = .held .priority ∧
        (answerFor (trunk3 { rung with settling := .awaiting } field3).dev (.ring 0) .ring false 0x1000000 3).2 =
          .held .settling ∧
        (answerFor (trunk3 { rung with holder := .claimant .drill .drill } field3).dev (.ring 0) .ring false
          0x1000000 3).2 = .held .drill ∧
        (answerFor (trunk3 { rung with holder := .alarm } field3).dev (.ring 0) .ring false 0x1000000 3).2 = .held .alarm ∧
        (answerFor filtered (.ring 0) .ring false 0x0001000000000000 6).2 = .excludedQuiet ∧
        (answerFor filtered (.ring 0) .ring false 0x0002000000000000 6).2 = .excludedDisabled) ∧
      ((ringing { run1 with at_ := Vector.replicate 8 none }).dev.rs.runs[(0 : RunIx)] =
          some { run1 with at_ := Vector.replicate 8 none } ∧
        run1.state = .claiming ∧ ({ run1 with at_ := Vector.replicate 8 (some .granted) } : Run).at_[(0 : Building)] =
          some .granted ∧ tuned.dev.rs.gens[(0 : GenNo)] = none ∧ 8 ≤ (List.replicate 8 0).length ∧ run1.count ≠ 0) ∧
      ((ringing { run1 with state := .staging, gen := some 0 }).dev.rs.runs[(0 : RunIx)] =
          some { run1 with state := .staging, gen := some 0 } ∧
        ({ run1 with at_ := Vector.replicate 8 (some .staged) } : Run).at_[(0 : Building)] = some .staged ∧
        ({ run1 with at_ := Vector.replicate 8 (some .playing) } : Run).at_[(0 : Building)] ∈
          [some .granted, some .staged, some .playing]) ∧
      (bsHas 0xFF 0 = true ∧ run1.at_[(0 : Building)] = some .waiting))) ∧
    ((ringing { run1 with sounded := 1 }).dev.rs.runs[(0 : RunIx)] = some { run1 with sounded := 1 } ∧ run1.sounded = 0 ∧
      ({ run1 with sounded := 1 } : Run).sounded ≠ 0 ∧
      (∃ o d', endRun (envOf up) 0 .deadline plainEnd (ringing run1).dev = (o, d')) ∧
      ({ run1 with origin := .entry pass1 } : Run).origin = .entry pass1 ∧ run1.origin = .ringNow ∧
      (∀ b : Building, ({ run1 with at_ := Vector.replicate 8 (some (.dropped .quiet)) } : Run).at_[b] =
        some (.dropped .quiet)) ∧
      run1.at_[(0 : Building)] = some .waiting) :=
  ⟨⟨⟨(by
  refine ⟨by decide +kernel, fun r => ⟨run1, by simp, by decide⟩, fun run h => ?_, fun q hq => ?_⟩
  · have none1 : (ringing run1).dev.rs.runs[(1 : RunIx)] = none := by decide +kernel
    rw [none1] at h; cases h
  · obtain rfl : q = 0 := Fin.ext (Nat.lt_one_iff.1 hq)
    exact ⟨run1, by decide +kernel, by decide⟩),
   (by decide +kernel)⟩,
   by decide +kernel⟩,
   ⟨by decide +kernel, rfl, by decide, ⟨_, _, rfl⟩, rfl, rfl, by decide +kernel, by decide +kernel⟩⟩

/-- Generator 0 sounds for this user. -/
def sounding (u : GenUser) : State :=
  let s := ringing { run1 with state := .playing }
  { s with dev := setGen 0 (some { user := u, phase := .sounding, steps := [.tone 8 127], since := 0, order := 0 }) s.dev }

/-- Every generator has this user, assigned in the order of their numbers. -/
def allInUse (u : GenNo → GenUser) (s : State) : Dev :=
  (List.finRange 4).foldl (fun d g => setGen g (some
    { user := u g, phase := .sounding, steps := [.tone 8 127], since := 0, order := g.1 }) d) s.dev

/-- Run 1 has generator 2 and is the one started last. -/
def startedLast : Dev :=
  let d := allInUse (fun _ => .run 0) (ringing { run1 with state := .playing, gen := some 2 })
  { d with rs := { d.rs with startOrder := [0] } }

theorem witness_PatternsAreSetAndEnd :
    (((takesAtOnce up = true ∧ (0 < 1 ∧ 32 < 33) ∧ (31 : Fin 32).1 + 1 = 32 ∧
      (1 ≤ 8 ∧ 8 ≤ 8 ∧ 1 ≤ 127 ∧ 127 ≤ 127) ∧
      (StepPlace.tone 9 1 ∈ ([.tone 9 1, .finish] : List StepPlace).takeWhile fun x => x != .finish)) ∧
    (isRunning onBackup.tb = false ∧ isRunning (sounding .drill).tb = true ∧ (sounding .drill).dev.agenda = [] ∧
      (∀ u : GenUser, (sounding u).dev.rs.gens[(0 : GenNo)] =
        some { user := u, phase := .sounding, steps := [.tone 8 127], since := 0, order := 0 }) ∧
      (∀ u, up.dev.rs.gens[(0 : GenNo)] = some u → u.phase ≠ .sounding))) ∧
    (((sounding .drill).dev.rs.gens[(0 : GenNo)] =
        some { user := .drill, phase := .sounding, steps := [.tone 8 127], since := 0, order := 0 } ∧
      ([.tone 8 127, .gap 1] : List PStep)[0]? = some (.tone 8 127) ∧ [PStep.tone 8 127, .gap 1][1]? = some (.gap 1) ∧
      (0 + Config.msTicks 0 ≤ 5 ∧ 5 < 0 + Config.msTicks 12700) ∧
      (0 + Config.msTicks 12700 ≤ 418000 ∧ 418000 < 0 + Config.msTicks 12800) ∧ 0 + Config.msTicks 12800 ≤ 420000 ∧
      up.dev.rs.gens[(0 : GenNo)] = none ∧
      (trunk3 { rung with source := .tg 0 } (sounding .drill)).dev.ta.rows[(3 : Building)].source = .tg 0) ∧
    ((ringing run1).dev.rs.runs[(0 : RunIx)] = some run1 ∧
      holdsFirmly (trunk3 rung (ringing run1)).dev (.ring 0) 3 = true ∧
      ({ run1 with at_ := Vector.replicate 8 (some .granted) } : Run).at_[(3 : Building)] = some .granted) ∧
    ((ringing run1).dev.rs.waitList = [] ∧ patternOf up.dev 1 = [] ∧ patternOf tuned.dev 1 ≠ [] ∧
      tuned.dev.rs.gens[(0 : GenNo)] = none ∧ (∀ h : GenNo, h < 0 → (tuned.dev.rs.gens[h]).isSome = true)))) ∧
    ((tuned.dev.rs.gens[(0 : GenNo)] = none ∧ (∀ h : GenNo, (startedLast.rs.gens[h]).isSome = true) ∧
        ((startedLast.rs.startOrder.getLast?).bind fun x => (startedLast.rs.runs[x]).bind fun y => y.gen) = some 2) ∧
      (let d := allInUse (fun _ => .run 0) (ringing { run1 with state := .staging, gen := some 2 })
       (∀ h : GenNo, (d.rs.gens[h]).isSome = true) ∧ d.rs.startOrder = [] ∧
         ∃ u, d.rs.gens[(3 : GenNo)] = some u ∧
           (∃ x y, u.user = .run x ∧ d.rs.runs[x] = some y ∧ y.state = .staging) ∧
           (∀ x : GenNo, x ≠ 3 → (d.rs.gens[x]).all (fun v => v.order < u.order) = true)) ∧
      (let d := allInUse (fun _ => .chime .a) up
       (∀ h : GenNo, (d.rs.gens[h]).isSome = true) ∧ d.rs.startOrder = [] ∧
         (∀ h : GenNo, (d.rs.gens[h]).all (fun v => v.user = .chime .a) = true) ∧
         ∃ u, d.rs.gens[(3 : GenNo)] = some u ∧ u.user = .chime .a ∧
           ∀ x : GenNo, x ≠ 3 → (d.rs.gens[x]).all (fun v => v.order < u.order) = true)) :=
  ⟨⟨⟨(by decide),
   (by
  refine ⟨by decide, by decide, by decide, fun u => rfl, fun u h => ?_⟩
  have none0 : up.dev.rs.gens[(0 : GenNo)] = none := by decide +kernel
  rw [none0] at h; cases h)⟩,
   by decide +kernel⟩,
   ⟨by decide +kernel,
      ⟨by decide +kernel, by decide +kernel, _, rfl, ⟨0, _, rfl, rfl, rfl⟩, by decide +kernel⟩,
      by decide +kernel, by decide +kernel, by decide +kernel, _, rfl, rfl, by decide +kernel⟩⟩

/-! ### Announcements -/

/-- The host's request for clip 12 in zone 0.0. -/
def req1 : AnnounceReq :=
  { id := 1, origin := .host, clip := 12, length := 300, zones := 1, prio := .normal, notBefore := none, eligible := true,
    count := 600, playing := false, at_ := Vector.replicate 8 none, order := 0 }

/-- Clip 12 is defined; the queue and the player are as given. -/
def announcing (q : List AnnounceReq) (p : PlayerState) : State :=
  { timed 100 3600 with dev := { up.dev with am := { up.dev.am with
      clips := put up.dev.am.clips 11 (some 300), queue := q, player := p } } }

theorem witness_ClipDefineRewritesTheRecord :
    takesAtOnce up = true ∧ (0 < 1 ∧ 64 < 65 ∧ 3000 < 3001) ∧ (63 : Fin 64).1 + 1 = 64 ∧ 3000 ≤ 3000 := by decide

/-- The host's request, PLAYING in building 0. -/
def req1Held : AnnounceReq := { req1 with playing := true, at_ := put req1.at_ 0 (some .playing) }

theorem witness_AnnounceRequests :
    ((((takesAtOnce (announcing [] .idle) = true ∧ (announcing [] .idle).dev.ah.hold = false ∧ held.dev.ah.hold = true ∧
      (64 < 65 ∧ 1 < 2 ∧ 9 < 10 ∧ 3600 < 3601) ∧ (10 ≤ 10 ∧ 3600 ≤ 3600)) ∧
    (up.tb.time = none ∧ (announcing [] .idle).tb.time = some { day := 100, sec := 3600 } ∧
      (100 * 86400 + 3600 ≤ 100 * 86400 + 3600 ∧ 100 * 86400 + 3600 + 86400 < 101 * 86400 + 3601) ∧
      (100 * 86400 + 3600 < 101 * 86400 + 3600 ∧ 101 * 86400 + 3600 ≤ 100 * 86400 + 3600 + 86400)) ∧
    (up.dev.am.clips[(11 : Fin 64)] = none ∧ (announcing [] .idle).dev.am.clips[(11 : Fin 64)] = some 300 ∧
      (announcing [] .idle).dev.agenda = []) ∧
    (sameReq (announcing [req1] .idle).dev 12 1 .normal = some req1 ∧ req1.playing = false ∧
      sameReq (announcing [{ req1 with playing := true }] .playing).dev 12 1 .normal = some { req1 with playing := true } ∧
      sameReq (announcing [] .idle).dev 12 1 .normal = none ∧ (announcing [] .idle).dev.am.queue.length < 12 ∧
      12 ≤ (List.replicate 12 req1).length)) ∧
    (takesAtOnce (announcing [req1] .idle) = true ∧ (0 < 1 ∧ 255 < 256) ∧
      (∀ r ∈ (announcing [req1] .idle).dev.am.queue, r.id ≠ 2) ∧
      reqOf (announcing [req1] .idle).dev 1 = some req1 ∧ req1.origin ≠ .drill ∧
      ({ req1 with origin := .drill } : AnnounceReq).origin = .drill ∧
      reqOf (announcing [{ req1 with playing := true }] .playing).dev 1 = some { req1 with playing := true } ∧
      (announcing [{ req1 with playing := true }] .playing).dev.am.player = .playing ∧
      (announcing [{ req1 with playing := true }] .staging).dev.am.player = .staging)) ∧
    (((announcing [req1] .idle).dev.am.player = .idle ∧ (announcing [req1] .staging).dev.am.player ≠ .idle ∧
        reqOf (announcing [req1] .idle).dev 1 = some req1 ∧ req1.playing = false ∧ req1.eligible = true ∧
        (claimSet (.announce 1) .normal 1 (announcing [req1] .idle).dev).1 = .noneLeft ∧
        (claimSet (.announce 1) .normal 0x1000000 field3.dev).1 = .granted ∧
        (claimSet (.announce 1) .normal 0x1000000 (trunk3 rung field3).dev).1 = .held) ∧
      (answerOf [(3, .granted)] 3 = some .granted ∧
        holdsFirmly (trunk3 { rung with holder := .claimant (.announce 1) .normal } field3).dev (.announce 1) 3 = true) ∧
      (held.dev.ah.hold = true ∧ (announcing [req1] .idle).dev.ah.hold = false ∧ clipLength up.dev 12 = none ∧
        clipLength (announcing [req1] .idle).dev 12 = some 300 ∧
        (∃ q ∈ (announcing [{ req1 with origin := .drill }] .idle).dev.am.queue, q.origin = .drill) ∧
        (∀ q ∈ (announcing [req1] .idle).dev.am.queue, q.origin ≠ .drill ∧ q.playing = false ∧ q.prio ≠ .drill)))) ∧
    (reqOf (announcing [req1] .idle).dev 1 = some req1 ∧ ordinaryEnd.release = true ∧ ordinaryEnd.powered = true ∧
      reqOf (announcing [req1Held] .playing).dev 1 = some req1Held ∧ req1Held.playing = true ∧
      req1Held.at_[(0 : Building)] = some .playing) :=
  ⟨⟨⟨(by decide +kernel),
   (by decide +kernel)⟩,
   by decide +kernel⟩,
   by decide +kernel⟩

theorem witness_AnnounceRequests_ids :
    ((announcing [req1] .idle).dev.am.nextId = 1 ∧
      ((announcing [req1] .idle).dev.am.queue.length + (announcing [req1] .idle).dev.am.released.length ≤ 254)) ∧
    (2 = ((announcing [req1] .idle).dev.am.nextId - 1 + 1) % 255 + 1 ∧ 1 < 255 ∧
      (∀ q ∈ (announcing [req1] .idle).dev.am.queue, q.id ≠ 2) ∧
      (∀ p ∈ (announcing [req1] .idle).dev.am.released, ¬(p.1 = 2 ∧ p.2 ≠ 0)) ∧
      ∀ j < 1, ∃ q ∈ (announcing [req1] .idle).dev.am.queue,
        q.id = ((announcing [req1] .idle).dev.am.nextId - 1 + j) % 255 + 1) ∧
    1 = (255 - 1 + 1) % 255 + 1 ∧
    (ordinaryEnd.release = true ∧ ordinaryEnd.powered = true ∧ ordinaryEnd.later = false) := by decide +kernel

/-- The same, with its start window, end limit and stop window armed. -/
def windowed (q : List AnnounceReq) (p : PlayerState) : State :=
  let s := announcing q p
  { s with dev := { s.dev with am := { s.dev.am with startBy := some 1, endBy := some 2, stopBy := some 3 } } }

/-- The request of the host, PLAYING with building 0 granted. -/
def req1Granted : AnnounceReq := { req1 with playing := true, at_ := put req1.at_ 0 (some .granted) }

theorem witness_ClipPortMovesThePlayer :
    ((isRunning onBackup.tb = false ∧ isRunning (announcing [] .starting).tb = true ∧ (announcing [] .starting).dev.agenda = [] ∧
      (announcing [] .starting).dev.am.player = .starting ∧ (announcing [] .idle).dev.am.player ≠ .starting ∧
      up.dev.am.startBy = none ∧ up.dev.am.endBy = none ∧ up.dev.am.stopBy = none ∧
      playingReq (windowed [{ req1 with playing := true }] .playing).dev = some { req1 with playing := true } ∧
      (windowed [{ req1 with playing := true }] .playing).dev.am.endBy.isSome = true ∧
      playingReq (windowed [{ req1 with playing := true }] .starting).dev = some { req1 with playing := true } ∧
      (windowed [{ req1 with playing := true }] .starting).dev.am.startBy.isSome = true ∧
      (windowed [{ req1 with playing := true }] .stopping).dev.am.player = .stopping ∧
      (windowed [{ req1 with playing := true }] .stopping).dev.am.stopBy.isSome = true) ∧
    (reqOf (announcing [req1Granted] .staging).dev 1 = some req1Granted ∧ req1Granted.playing = true ∧
      (announcing [req1Granted] .staging).dev.am.player = .staging ∧
      (announcing [req1Granted] .starting).dev.am.player = .starting ∧ req1Granted.at_[(0 : Building)] = some .granted ∧
      (∀ c : Building, c ≠ 0 → ¬(req1Granted.at_[c] = some .granted ∨ req1Granted.at_[c] = some .playing)) ∧
      (∀ b : Building, req1Granted.at_[b] ≠ some .lostPreempted) ∧ (1 : BuildingSet) ≠ 0)) ∧
    ((∀ b : Building, zoneMap req1Held.zones b ≠ 0 → req1Held.at_[b] ∈ [some .playing, some .outQuiet, some .outDisabled]) ∧
      ¬(∀ b : Building, zoneMap req1Granted.zones b ≠ 0 →
        req1Granted.at_[b] ∈ [some .playing, some .outQuiet, some .outDisabled])) :=
  ⟨⟨by decide +kernel,
   by decide +kernel⟩,
   by decide +kernel⟩

/-! ### Paging -/

/-- Slot A configured for zone 0.0, in this state. -/
def paging (p : Page) : State := { up with dev := setPage .a p up.dev }

def page1 : Page := { Page.cold with configured := true, zones := 1 }

theorem witness_PageRequests :
    takesAtOnce (paging page1) = true ∧ (1 < 2 ∧ 32 < 33) ∧ pageOf (paging page1).dev .a = page1 ∧ page1.state = .idle ∧
      (paging page1).dev.ah.hold = false ∧ held.dev.ah.hold = true ∧
      ({ page1 with state := .waiting } : Page).state ≠ .idle ∧ (paging page1).dev.agenda = [] ∧
      pageOf (paging { page1 with state := .opened }).dev .a = { page1 with state := .opened } := by decide +kernel

/-- Slot A with a zone of building 3, whose bus is configured. -/
def pageIn3 (p : Page) : State := { field3 with dev := setPage .a { p with zones := 0x1000000 } field3.dev }

theorem witness_PushToTalkByMode :
    ((pageOf (paging page1).dev .a = page1 ∧ page1.level = false ∧ page1.level ≠ true) ∧
    (isRunning (paging page1).tb = true ∧ isRunning onBackup.tb = false ∧ (paging page1).dev.agenda = []) ∧
    (({ page1 with level := true, since := some 0 } : Page).level ≠ page1.seen ∧ page1.lockout = false ∧ page1.state = .idle) ∧
    pageOf (paging { page1 with level := true, since := some 0 }).dev .a = { page1 with level := true, since := some 0 } ∧
    pageOf (paging { page1 with seen := true, since := some 0, state := .opened }).dev .a =
      { page1 with seen := true, since := some 0, state := .opened }) ∧
    ((pageOf (paging page1).dev .a = page1 ∧ held.dev.ah.hold = true ∧ (paging page1).dev.ah.hold = false ∧
        (bsHas 1 0 = true ∧ zoneMap page1.zones 0 ≠ 0) ∧ zoneMap page1.zones 1 = 0) ∧
      ((claimSet (.page .a) .normal 1 (paging page1).dev).1 = .noneLeft ∧
        (claimSet (.page .a) .normal 0x1000000 (pageIn3 page1).dev).1 = .granted ∧
        (claimSet (.page .a) .normal 0x1000000 (trunk3 rung (pageIn3 page1)).dev).1 = .held ∧
        page1.chimePattern = none ∧ patternOf tuned.dev 1 ≠ [] ∧ tuned.dev.rs.gens[(0 : GenNo)] = none) ∧
      (({ page1 with state := .chime, chimeGen := some 0 } : Page).chimeGen = some 0 ∧ page1.started = false ∧
        (sounding (.chime .a)).dev.rs.gens[(0 : GenNo)] =
          some { user := .chime .a, phase := .sounding, steps := [.tone 8 127], since := 0, order := 0 } ∧
        ({ page1 with state := .opened, held := 1 } : Page).state = .opened ∧ bsRemove 1 0 = 0 ∧ bsRemove 3 0 ≠ 0 ∧
        tuned.dev.rs.waitList = []))  :=
  ⟨by decide +kernel,
   by decide +kernel⟩

/-! ### Drills -/

/-- A drill script with pattern 1. -/
def script1 : Script :=
  { preClip := none, preDelay := 0, pattern := 1, evacuation := 30, clearLimit := 60, allClear := none }

def scripted : State :=
  { tuned with
    tb := (timed 100 3600).tb
    dev := { tuned.dev with dc := { tuned.dev.dc with scripts := put tuned.dev.dc.scripts 0 (some script1) } } }

/-- A drill in this phase. -/
def drill1 (p : DrillPhase) : Drill :=
  { script := script1, buildings := 1, record := 1, phase := p, count := 0, clip := none, at_ := Vector.replicate 8 .none,
    gen := none, genStarted := false, outcome := none }

def drilling (p : DrillPhase) (n : Nat) : State :=
  { scripted with dev := { scripted.dev with dc := { scripted.dev.dc with drill := some { drill1 p with count := n } } } }

/-- An open record of the store. -/
def record1 : Record :=
  { number := 1, kind := .alarm, buildings := 1, start := none, evacStart := none,
    at_ := Vector.replicate 8 { mute := none, clear := none, elapsed := none }, activations := 1, lastActivation := none,
    lineQuiet := none, endTime := none, outcome := none, read := false }

def stored (l : List Record) : State := { up with dev := { up.dev with dc := { up.dev.dc with records := l } } }

theorem witness_ScriptAndDrillRequests :
    ((takesAtOnce scripted = true ∧ (3 < 4 ∧ 64 < 65 ∧ 120 < 121 ∧ 32 < 33 ∧ 29 < 30 ∧ 600 < 601 ∧ 59 < 60 ∧ 1800 < 1801) ∧
      ¬(3 < 3 ∨ 64 < 64 ∨ 120 < 120 ∨ 32 < 32 ∨ (600 < 30 ∨ 600 < 600) ∨ 64 < 64 ∨
        (32 ≠ 0 ∧ (1800 < 60 ∨ 1800 < 1800 ∨ 1800 < 600)))) ∧
    (held.dev.ah.hold = true ∧ scripted.dev.ah.hold = false ∧ scripted.dev.dc.drill = none ∧ tuned.tb.time = none ∧
      scripted.tb.time = some { day := 100, sec := 3600 } ∧ scripted.dev.dc.scripts[(0 : Fin 4)] = some script1 ∧
      scripted.dev.dc.scripts[(1 : Fin 4)] = none ∧ patternOf scripted.dev script1.pattern ≠ [] ∧
      patternOf up.dev script1.pattern = []) ∧
    (100 * 86400 + 3600 < 107 * 86400 + 3600 ∧ 107 * 86400 + 3600 ≤ 100 * 86400 + 3600 + 604800) ∧
    ((drilling .pre 0).dev.dc.drill = some (drill1 .pre) ∧ up.dev.dc.slot = none) ∧
    ((stored []).dev.dc.records = [] ∧ (∀ r ∈ (stored [record1]).dev.dc.records, r.number ≠ 2) ∧
      (stored [record1]).dev.dc.records.getLast? = some record1 ∧ recordOf (stored [record1]).dev 1 = some record1)) ∧
    ((drilling .pre 0).dev.dc.drill = some (drill1 .pre) ∧ (drill1 .pre).phase = .pre ∧
      (drilling .allClear 0).dev.dc.drill = some (drill1 .allClear) ∧ (drill1 .allClear).phase = .allClear ∧
      (drilling .muster 0).dev.dc.drill = some (drill1 .muster) ∧
      ((drill1 .muster).phase = .evac ∨ (drill1 .muster).phase = .muster) ∧
      (drill1 .evac).gen = none ∧ ({ drill1 .evac with gen := some 0 } : Drill).gen = some 0 ∧
      bsHas (drill1 .evac).buildings 0 = true ∧
      rowOfKind field3.dev.bus[(3 : Building)] .marshalPanel = some (station 9 .marshalPanel) ∧
      rowAt field3.dev.bus[(3 : Building)] 9 = some (station 9 .marshalPanel)) :=
  ⟨by decide +kernel,
   by decide +kernel⟩

/-- A drill's record in EVAC, its evacuation begun at 01:00. -/
def evacRecord : Record := { record1 with kind := .drill 0, evacStart := some { day := 100, sec := 3600 } }

/-! ### The alarm hold -/

/-- The fire input at a level that is being timed. -/
def fire (level active hold : Bool) : State :=
  { up with dev := { up.dev with ah := { up.dev.ah with
      active := active, level := level, timing := some 0, hold := hold, record := if hold then some 1 else none } } }

/-- The queue holds the host's request, the player being so, with CPLAY. -/
def clipUnderWay (p : PlayerState) (c : Bool) : State :=
  let s := announcing [{ req1 with playing := true }] p
  { s with dev := { s.dev with am := { s.dev.am with cplay := c } } }

/-- Building 3 is held by ALARM on bus 3 as given, with AH's lamp outstanding or not. -/
def forced3 (x : Bus) (o : Option Nat) : State :=
  let s := withBus 3 x (rowed .alarm none)
  { s with dev := { s.dev with ah := { s.dev.ah with
      hold := true, record := some 1, lamps := put s.dev.ah.lamps 3 { wanted := some .on, outstanding := o, full := false } } } }

theorem witness_HoldBeginsAndEnds :
    (((up.dev.ah.level = false ∧ up.dev.ah.level ≠ true) ∧ isRunning onBackup.tb = false ∧
    (isRunning (fire true false false).tb = true ∧ (fire true false false).dev.ah.timing.isSome = true ∧
      (fire true false false).dev.ah.level = true ∧ (fire true false false).dev.ah.active = false ∧
      (fire true false false).dev.ah.hold = false ∧ (fire true false true).dev.ah.hold = true ∧
      (fire true false true).dev.ah.record = some 1 ∧ (fire true false true).dev.agenda = []) ∧
    ((fire false true true).dev.ah.level = false ∧ (fire false true true).dev.ah.active = true ∧
      (fire false true false).dev.ah.hold = false)) ∧
    (takesAtOnce up = true ∧ up.dev.ah.hold = false ∧ held.dev.ah.hold = true ∧ held.dev.ah.active = false ∧
      (fire true true true).dev.ah.active = true ∧ held.dev.ah.record = some 1 ∧
      record1 ∈ (stored [record1]).dev.dc.records ∧ record1.number = 1)) ∧
    (((ringing { run1 with state := .done }).dev.rs.runs[(0 : RunIx)] = some { run1 with state := .done } ∧
        up.dev.rs.runs[(0 : RunIx)] = none ∧ up.dev.rs.gens[(0 : GenNo)] = none ∧
        (ringing { run1 with gen := some 0, origin := .entry pass1 }).dev.rs.runs[(0 : RunIx)] =
          some { run1 with gen := some 0, origin := .entry pass1 } ∧ run1.state ≠ .done) ∧
      (((clipUnderWay .playing true).dev.am.queue.map fun x => x.id).Nodup ∧
        (clipUnderWay .playing true).dev.am.finished.length ≤ 8 ∧ (clipUnderWay .playing true).dev.am.queue ≠ [] ∧
        (clipUnderWay .playing true).dev.am.player = .playing ∧ (clipUnderWay .playing true).dev.am.cplay = true ∧
        (clipUnderWay .starting false).dev.am.player = .starting ∧
        (clipUnderWay .starting false).dev.am.cplay = false ∧ (clipUnderWay .staging false).dev.am.player = .staging) ∧
      (up.dev.dc.drill = none ∧ (drilling .evac 0).dev.dc.drill = some (drill1 .evac) ∧
        bsHas (drill1 .evac).buildings 0 = true ∧ ({ drill1 .evac with gen := some 0 } : Drill).gen = some 0) ∧
      ((lampWire.dev.bus[(3 : Building)]).alarm = false ∧ (fullBus.queue ≠ [] ∧ fullBus.alarm = false) ∧
        rowOfKind bus3 .zoneSwitch = some (station 1 .zoneSwitch) ∧ rowOfKind up.dev.bus[(3 : Building)] .zoneSwitch = none) ∧
      (((forced3 bus3 none).dev.ta.rows[(3 : Building)]).holder = .alarm ∧
        (field3.dev.ta.rows[(3 : Building)]).holder ≠ .alarm ∧
        rowOfKind bus3 .zoneSwitch = some (station 1 .zoneSwitch) ∧ rowAt bus3 1 = some (station 1 .zoneSwitch) ∧
        rowAt offBus 1 = some { station 1 .zoneSwitch with state := .offline } ∧
        (station 1 .zoneSwitch).state ≠ .offline ∧ 6 ≤ fullBus.queue.length ∧ bus3.queue.length < 6 ∧
        rowOfKind up.dev.bus[(3 : Building)] .marshalPanel = none ∧
        rowOfKind bus3 .marshalPanel = some (station 9 .marshalPanel) ∧ rowAt bus3 9 = some (station 9 .marshalPanel) ∧
        rowAt offBus 9 = some { station 9 .marshalPanel with state := .offline } ∧
        ((forced3 bus3 (some 4)).dev.ah.lamps[(3 : Building)]).outstanding.isSome = true ∧
        ((forced3 bus3 none).dev.ah.lamps[(3 : Building)]).outstanding = none)) :=
  ⟨⟨(by decide),
   (by decide +kernel)⟩,
   by decide +kernel⟩

/-! ### Second events -/

theorem witness_SecondRowsAreTheirSecondEvent :
    (isRunning up.tb = true ∧ isRunning onBackup.tb = false) ∧
    (∃ l, (withLine (some { autumnLine with state := .advance, pace := 1 }) (timed 9430 10799)).dev.lines[(2 : LineNo)] = some l ∧
      issuesNext (timed 9430 10799).tb l = true) ∧
    (∃ x ∈ pendingNext (planned { (belled .pending).dev.tt with today := some 100, highWater := some 28799 }), x.slot = 0) ∧
    (∃ r, reqOf (announcing [{ req1 with count := 1 }] .idle).dev 1 = some r ∧ r.playing = false ∧
      (r.eligible = true ∨ eligibleNext up.tb r = true) ∧ r.count ≤ 1) ∧
    ((pageOf (paging { page1 with state := .waiting, waitCount := 4 }).dev .a).state = .waiting ∧
      up.link.settings.pageWait ≤ 4 + 1) ∧
    (∃ x, (drilling .evac 29).dev.dc.drill = some x ∧ x.phase = .evac ∧ x.script.evacuation ≤ x.count + 1) ∧
    (∃ x, (drilling .muster 59).dev.dc.drill = some x ∧ x.phase = .muster ∧ x.script.clearLimit ≤ x.count + 1) ∧
    (∃ x, (drilling .pre 0).dev.dc.drill = some x ∧ x.phase = .pre ∧ x.clip = none ∧ x.script.preDelay ≤ x.count + 1) :=
  ⟨by decide, ⟨_, rfl, by decide +kernel⟩, by decide +kernel, ⟨_, rfl, by decide⟩, by decide, ⟨_, rfl, by decide⟩,
    ⟨_, rfl, by decide⟩, ⟨_, rfl, by decide⟩⟩

/-- Run 1 waits for a generator, its deadline one second away. -/
def lastWait : Dev :=
  let d := (ringing { run1 with state := .genWait, count := 1 }).dev
  { d with rs := { d.rs with waitList := [0] } }

/-- The scheduled drill's moment has come with the alarm hold in force. -/
def lateDrill : DrillPlan := { script := 0, buildings := 1, moment := { day := 100, sec := 3600 } }

/-- The host's request with a not-before time, not eligible yet. -/
def req1Later : AnnounceReq := { req1 with notBefore := some { day := 100, sec := 3600 }, eligible := false, order := 4 }

/-- A plain second event of campus time. -/
def plainSecond : SecondEvent := { new := some { day := 100, sec := 3601 }, minute := false, day := false, step := none }

/-- Line 2 in fault, its count at 29. -/
def faulty : Line := { autumnLine with fault := some .probeOpen, faultWait := 29, state := .fault }

/-- Building 3's trunk on bus 3 as given, its STAGE in this phase, the row so settled. -/
def retrying (x : Bus) (p : StagePhase) (m : Settling) : State :=
  let s := withBus 3 x field3
  { s with dev := setRow 3 { Row.cold with stage := some { map := 1, owner := none, phase := p }, settling := m } s.dev }

/-- A drill in EVAC at its limit whose record has every building clear or none. -/
def lastEvac (c : Option Stamp) (limit : Nat) : State :=
  { scripted with dev := { scripted.dev with dc := { scripted.dev.dc with
      drill := some { drill1 .evac with script := { script1 with clearLimit := limit }, count := 30 }
      records := [{ evacRecord with at_ := Vector.replicate 8 { mute := none, clear := c, elapsed := none } }] } } }

theorem witness_LimitsAtTheSecondEvent :
    (((pageOf (paging { page1 with state := .waiting, waitCount := 4 }).dev .a = { page1 with state := .waiting, waitCount := 4 } ∧
      (envOf up).settings.pageWait ≤ 4 + 1 ∧ 3 + 1 < (envOf up).settings.pageWait ∧ (envOf up).settings.pageTalk ≤ 119 + 1) ∧
    (reqOf (announcing [req1] .idle).dev 1 = some req1 ∧ req1.eligible = true ∧ 2 ≤ req1.count ∧
      ({ req1 with count := 1 } : AnnounceReq).count ≤ 1) ∧
    ((lastWait.rs.runs[(0 : RunIx)] = some { run1 with state := .genWait, count := 1 } ∧ lastWait.rs.waitList = [0] ∧
        run1.order < 1 ∧ ∀ q ∈ lastWait.rs.waitList, (lastWait.rs.runs[q]).all (fun z => z.gen = none) = true) ∧
      ((ringing { run1 with count := 0 }).dev.rs.runs[(0 : RunIx)] = some { run1 with count := 0 } ∧
        (ringing { run1 with count := 0 }).dev.rs.waitList = [] ∧ run1.state = .claiming ∧
        run1.at_[(0 : Building)] = some .waiting ∧ 1 ≠ run1.order)) ∧
    ((drilling .evac 29).dev.dc.drill = some { drill1 .evac with count := 29 } ∧ script1.evacuation ≤ 29 + 1 ∧
      ∃ dr', (drillSecond (envOf (drilling .evac 29)) (drilling .evac 29).dev).dc.drill = some dr') ∧
    (some lateDrill : Option DrillPlan) = some lateDrill ∧ held.dev.ah.hold = true ∧ held.dev.dc.drill = none ∧
      (lateDrill.moment.day * 86400 + lateDrill.moment.sec ≤ 100 * 86400 + 3600 ∧
        100 * 86400 + 3599 < lateDrill.moment.day * 86400 + lateDrill.moment.sec) ∧
      scripted.dev.ah.hold = false ∧ (drilling .evac 0).dev.dc.drill.isSome = true ∧
      (drilling .evac 0).dev.ah.hold = false ∧ scripted.dev.dc.drill = none ∧
      scripted.dev.dc.scripts[lateDrill.script] = some script1 ∧ patternOf scripted.dev script1.pattern ≠ [] ∧
      up.dev.dc.scripts[lateDrill.script] = none) ∧
    (((drilling .pre 0).dev.dc.drill = some (drill1 .pre) ∧ (drill1 .pre).clip = none ∧
        ({ drill1 .pre with clip := some 1 } : Drill).clip.isSome = true ∧ script1.preDelay ≤ 0 + 1 ∧
        0 + 1 < ({ script1 with preDelay := 120 } : Script).preDelay ∧ 28 + 1 < script1.evacuation ∧
        script1.clearLimit ≤ 59 + 1 ∧ 58 + 1 < script1.clearLimit) ∧
      (reqOf (announcing [req1Later] .idle).dev 1 = some req1Later ∧ req1Later.playing = false ∧
        req1Later.eligible = false ∧ (100 * 86400 + 3600 ≤ 100 * 86400 + 3601 ∧ ¬100 * 86400 + 3602 ≤ 100 * 86400 + 3601) ∧
        plainSecond.new = some { day := 100, sec := 3601 } ∧ 2 ≤ req1Later.count ∧
        ({ req1Later with count := 1 } : AnnounceReq).count ≤ 1) ∧
      (req1Later ∈ (announcing [req1Later] .idle).dev.am.queue ∧ 4 ≤ req1Later.order ∧
        ((announcing [req1Later] .idle).dev.am.queue.map fun q => q.id).Nodup) ∧
      (catching.dev.lines[(2 : LineNo)] = some { autumnLine with state := .advance, pos := some 178, pol := some .neg } ∧
        (plainSecond.minute = false ∧ plainSecond.step = none) ∧ autumnLine.probe = none ∧ autumnLine.catchUp ≤ 10 ∧
        (faulty.fault.isSome = true ∧ 29 ≤ faulty.faultWait ∧ faulty.enabled = true ∧ faulty.view = .online ∧
          faulty.probe = none ∧ faulty.state ≠ .advance ∧ faulty.inFlight = none) ∧
        (enqueue 3 4 (.impulse .pos 500) (.lc 2) catching.dev).1 = .accepted 0 ∧
        (enqueue 3 4 .probe (.lc 2) catching.dev).1 = .accepted 0))) ∧
    (((withLine (some { faulty with faultWait := 30 }) field3).dev.lines[(2 : LineNo)] =
          some { faulty with faultWait := 30 } ∧
        (faulty.fault.isSome = true ∧ faulty.enabled = true ∧ faulty.view = .online ∧ faulty.probe = none) ∧
        ({ plainSecond with minute := true } : SecondEvent).minute = true ∧ plainSecond.minute = false) ∧
      (((retrying bus3 .placing .settled).dev.ta.rows[(3 : Building)]).stage =
          some { map := 1, owner := none, phase := .placing } ∧
        Settling.settled ≠ .muting none ∧ StagePhase.confirmed ≠ .placing ∧
        ((retrying bus3 .confirmed (.muting none)).dev.ta.rows[(3 : Building)]).settling = .muting none ∧
        rowOfKind bus3 .zoneSwitch = some (station 1 .zoneSwitch) ∧ rowAt bus3 1 = some (station 1 .zoneSwitch) ∧
        (station 1 .zoneSwitch).state ≠ .offline ∧ bus3.alarm = false ∧ bus3.queue.length < 6 ∧ 6 ≤ fullBus.queue.length ∧
        2 ≤ fullBus.queue.length) ∧
      (({ wanted := some .on, outstanding := none, full := true } : LampKeep).full = true ∧ LampKeep.cold.full = false ∧
        rowOfKind bus3 .marshalPanel = some (station 9 .marshalPanel) ∧ rowAt bus3 9 = some (station 9 .marshalPanel) ∧
        (station 9 .marshalPanel).state ≠ .offline ∧ bus3.queue.length < 2) ∧
      ((drilling .evac 29).dev.dc.drill = some { drill1 .evac with count := 29 } ∧ script1.evacuation ≤ 29 + 1 ∧
        (∃ x, recordOf (lastEvac (some { day := 100, sec := 3700 }) 60).dev 1 = some x ∧
          ∀ b : Building, (x.at_[b]).clear.isSome = true) ∧
        (∃ x, recordOf (lastEvac none 60).dev 1 = some x ∧ (x.at_[(0 : Building)]).clear.isSome = false) ∧
        30 < 60 ∧ 0 ≤ 30)) :=
  ⟨⟨⟨by decide +kernel, by decide +kernel, by decide +kernel,
    ⟨by decide +kernel, by decide,
      Option.isSome_iff_exists.1
        (by decide +kernel : (drillSecond (envOf (drilling .evac 29)) (drilling .evac 29).dev).dc.drill.isSome = true)⟩,
    rfl, rfl, rfl, by decide, by decide +kernel⟩,
   by decide +kernel⟩,
   ⟨by decide +kernel, by decide +kernel, by decide +kernel, by decide +kernel, by decide,
      ⟨_, rfl, by decide +kernel⟩, ⟨_, rfl, by decide +kernel⟩, by decide, by decide⟩⟩

theorem witness_LimitsAtTheSecondEvent_pages :
    (∀ p : Page, pageOf (paging p).dev .a = p) ∧
    ((envOf up).settings.pageTalk ≤ 119 + 1 ∧ 118 + 1 < (envOf up).settings.pageTalk) ∧
    (({ page1 with state := .opened, started := true, talkCount := 119 } : Page).state = .opened ∧
      ({ page1 with state := .opened, started := true, talkCount := 119 } : Page).started = true ∧
      ({ page1 with state := .opened, started := true, talkCount := 119 } : Page).talkCount = 119 ∧
      page1.chimeGen = none ∧ ({ page1 with state := .opened } : Page).started = false) :=
  ⟨fun _ => rfl, by decide, by decide⟩

theorem witness_FieldStationsChangeOnlyByTheirBus :
    ((∃ t, exec .secondEnd field3 = .next t) ∧ (∀ b v, Instr.secondEnd ≠ .successfulAttempt b v) ∧
      (∀ b v, Instr.secondEnd ≠ .busyLimit b v) ∧ (∀ b, Instr.secondEnd ≠ .applyMark b) ∧
      (∀ x, Instr.secondEnd ≠ .entryToBackup x) ∧ (∀ b, Instr.secondEnd ≠ .buildingClearPress b) ∧
      (∀ b a r, Instr.secondEnd ≠ .probeMeasurementEnd b a r) ∧ Instr.secondEnd ≠ .restore ∧
      Instr.secondEnd ≠ .coldStart) ∧
    (restorable.tb.supply = .backup ∧ restorable.tb.retained = true ∧ restorable.tb.vmain = true ∧
      ∃ t, exec .restore restorable = .next t) ∧
    (lost.tb.retained = false ∧ lost.tb.vmain = true ∧ ∃ t, exec .coldStart lost = .next t) ∧
    (up.tb.supply = .main ∧ up.tb.retained = true ∧ ∃ t, exec .restore up = .next t) :=
  ⟨⟨⟨_, rfl⟩, nofun, nofun, nofun, nofun, nofun, nofun, nofun, nofun⟩, ⟨rfl, rfl, rfl, ⟨_, rfl⟩⟩, ⟨rfl, rfl, ⟨_, rfl⟩⟩,
    rfl, rfl, ⟨_, rfl⟩⟩

/-- Bus 3 with this on its wires; its zone switch has staged one zone and its panel's button was pressed. -/
def cutOff (w : Wire) : State :=
  withBus 3 { bus3 with
    wire := w, field := [{ freshField 1 with staged := 1 }, { freshField 0 with press := some 7 }] } up

theorem witness_FieldStationsChangeOnlyByTheirBus_powerFails :
    (∀ w, isPowered (cutOff w).tb = true ∧ (cutOff w).dev.bus[(3 : Building)].wire = w ∧
      ∃ t, exec (.entryToBackup 8) (cutOff w) = .next t) ∧
    (bsHas 8 3 = true ∧ bsHas 8 0 = false ∧ lampSent.addr = 9 ∧
      lampSent.what = .command { addr := 9, op := .lamp .flash, owner := .dc, serial := 0 } ∧
      ({ lampSent with what := .poll true } : Transaction).what = .poll true) ∧
    (isPowered restarting.tb = true ∧ isPowered onBackup.tb = false ∧
      exec (.entryToBackup 8) onBackup = .next onBackup) :=
  ⟨fun w => ⟨rfl, rfl, _, rfl⟩, by decide, rfl, rfl, rfl⟩

/-- An apply mark that is cut off after it was taken acts, and a poll that is cut off clears no latch (R21, R25). -/
theorem test_cut_off :
    leads (.entryToBackup 8) (cutOff .applyMark) (fun t =>
        (fieldAt t.dev.bus[(3 : Building)] 1).active = 1) = true ∧
      leads (.entryToBackup 8) (cutOff (.attempt { lampSent with what := .poll false })) (fun t =>
        (fieldAt t.dev.bus[(3 : Building)] 0).press = some 7 ∧
          (fieldAt t.dev.bus[(3 : Building)] 1).active = 0) = true := by decide +kernel

/-! ### What the blocks do at supply events, and their shared work -/

theorem witness_BlocksAtEntryToBackup :
    (bsHas 0 3 = false ∧ bsHas 8 3 = true ∧ (lampWire.dev.bus[(3 : Building)]).wire = .attempt lampSent ∧
      lampSent.what = .command { addr := 9, op := .lamp .flash, owner := .dc, serial := 0 }) ∧
    ((belled .sent).dev.tt.todayPlan = some (.plan 3) ∧
      ∃ x ∈ (belled .sent).dev.tt.plans[(3 : PlanNo)], markOf x = some .sent) ∧
    (up.dev.rs.runs[(0 : RunIx)] = none ∧ (ringing run1).dev.rs.runs[(0 : RunIx)] = some run1 ∧ run1.state ≠ .done ∧
      (ringing { run1 with state := .done }).dev.rs.runs[(0 : RunIx)] = some { run1 with state := .done } ∧
      ({ run1 with origin := .entry pass1 } : Run).origin = .entry pass1) ∧
    ((announcing [req1] .idle).dev.am.queue ≠ [] ∧ ((announcing [req1] .idle).dev.am.queue.map fun r => r.id).Nodup ∧
      (announcing [req1] .idle).dev.am.finished.length ≤ 8) ∧
    ((drilling .evac 0).dev.dc.drill = some (drill1 .evac) ∧ record1 ∈ (stored [record1]).dev.dc.records ∧
      record1.number = (drill1 .evac).record ∧ record1.outcome = none) := by decide +kernel

/-- The drill's own request for clip 12. -/
def drillReq : AnnounceReq := { req1 with origin := .drill, prio := .drill }

theorem witness_BlocksAtEntryToBackup_wires :
    (∀ w, (∃ d', devBackup 8 (envOf up) (cutOff w).dev = d') ∧ (cutOff w).dev.bus[(3 : Building)].wire = w) ∧
    bsHas 8 3 = true ∧ bsHas 8 2 = false ∧ drillReq.origin = .drill ∧
      drillReq ∈ (announcing [drillReq] .idle).dev.am.queue ∧
      ((announcing [drillReq] .idle).dev.am.queue.map fun r => r.id).Nodup :=
  ⟨fun _ => ⟨⟨_, rfl⟩, rfl⟩, by decide +kernel⟩

/-- A RESTORE after an outage from 09:10 to 09:38 of day 100. -/
def outage : RestoreEvent :=
  { start := some { day := 100, sec := 33000 }, now := some { day := 100, sec := 34680 }, shift := none, dateChanged := false }

theorem witness_BlocksAtRestore :
    (∃ d', devRestore outage (envOf up) field3.dev = d') ∧ (held.dev.ah.hold = true ∧ up.dev.ah.hold = false) ∧
    (({ bus3 with alarm := true } : Bus).alarm = true ∧ (rowOfKind bus3 .marshalPanel).isSome = true) ∧
    (∃ l, ({ autumnLine with pos := none } : Line) = l ∧ l.pos = none) ∧
    (outage.now = some { day := 100, sec := 34680 } ∧
      lateDrill.moment.day * 86400 + lateDrill.moment.sec ≤ 100 * 86400 + 34680) ∧
    (rowOfKind field3.dev.bus[(3 : Building)] .marshalPanel = some (station 9 .marshalPanel) ∧
      rowAt field3.dev.bus[(3 : Building)] (station 9 .marshalPanel).addr = some (station 9 .marshalPanel) ∧
      (field3.dev.bus[(3 : Building)]).alarm = false ∧ (field3.dev.bus[(3 : Building)]).queue.length ≤ 4 ∧
      ({ wanted := some .off, outstanding := none, full := false } : LampKeep).wanted = some .off) :=
  ⟨⟨_, rfl⟩, ⟨rfl, rfl⟩, ⟨rfl, by decide +kernel⟩, ⟨_, rfl, rfl⟩, ⟨rfl, by decide⟩, by decide +kernel⟩

theorem witness_BlocksAtRestart :
    (∃ d', devRestart (envOf up) lampWire.dev = d') ∧
    ((ringing run1).dev.rs.runs[(0 : RunIx)] = some run1 ∧ run1.state ≠ .done) ∧
    (playingReq (announcing [{ req1 with playing := true }] .playing).dev = some { req1 with playing := true } ∧
      reqOf (announcing [{ req1 with playing := true }] .playing).dev 1 = some { req1 with playing := true } ∧
      (announcing [{ req1 with playing := true }] .playing).dev.am.player = .playing) ∧
    ((drilling .evac 0).dev.dc.drill = some (drill1 .evac) ∧ record1.number = (drill1 .evac).record ∧
      record1.outcome = none) ∧
    (catching.dev.lines[(2 : LineNo)] = some { autumnLine with state := .advance, pos := some 178, pol := some .neg } ∧
      ({ autumnLine with view := .unknown } : Line).view ≠ .online) ∧
    (held.dev.ah.hold = true ∧ up.dev.ah.hold = false ∧
      rowOfKind field3.dev.bus[(3 : Building)] .marshalPanel = some (station 9 .marshalPanel) ∧
      rowAt field3.dev.bus[(3 : Building)] (station 9 .marshalPanel).addr = some (station 9 .marshalPanel) ∧
      (station 9 .marshalPanel).state ≠ .offline ∧ (field3.dev.bus[(3 : Building)]).queue.length ≤ 4) :=
  ⟨⟨_, rfl⟩, by decide +kernel, by decide +kernel, by decide +kernel, by decide +kernel, by decide +kernel⟩

/-- The drill's request PLAYING, the host's behind it, with the player here. -/
def drillPlays (p : PlayerState) : State := announcing [{ drillReq with playing := true }, { req1 with id := 2 }] p

theorem witness_BlocksAtRestart_player :
    (∀ p, (drillPlays p).dev.am.player = p ∧ ((drillPlays p).dev.am.queue.map fun r => r.id).Nodup ∧
      (drillPlays p).dev.am.finished.length ≤ 8 ∧ ∃ r ∈ (drillPlays p).dev.am.queue, r.playing = true) ∧
    (∀ r ∈ (announcing [drillReq] .idle).dev.am.queue, r.playing = false) ∧
    (devRestart (envOf up) (drillPlays .playing).dev).am.heldOut = [(1, .aborted)] ∧
    up.dev.am.cplay = false ∧ ({ up.dev.am with cplay := true } : Announcer).cplay = true :=
  ⟨fun p => ⟨rfl, by simp [drillPlays, announcing, drillReq, req1], Nat.zero_le 8, _, .head _, rfl⟩,
    by decide +kernel, by decide +kernel, by decide, rfl⟩

/-- A RESTART keeps the outcome of the drill's clip, and DC hears of it when it ends (R135). -/
theorem test_restart_holds_clip_outcome :
    (let d := devRestart (envOf up) (drillPlays .playing).dev
     d.am.heldOut = [(1, .aborted)] ∧ Msg.clipOutcome 1 .aborted ∉ d.agenda ∧
       (devRestartEnds (envOf up) none false d).am.heldOut = [] ∧
       Msg.clipOutcome 1 .aborted ∈ (devRestartEnds (envOf up) none false d).agenda) := by decide +kernel

/-- The bell of plan 3 with its mark. -/
def bellMarked (m : Mark) (p : Option Stamp) : Entry := { bell with day := some { mark := m, late := false, pass := p } }

/-- A forward step of campus time on day 100. -/
def forward : TimeStep :=
  { old := some { day := 100, sec := 28000 }, new := { day := 100, sec := 28800 }, cause := .set, dateChanged := false }

/-- Plan 3 was today's, and plan 5 is what the calendar gives now; the high-water second is the bells' time. -/
def replanned : State :=
  planned { Timetable.cold with
    plans := put (put Timetable.cold.plans 3 [bell]) 5 [bell], week := Vector.replicate 7 (.plan 5), today := some 100
    todayPlan := some (.plan 3), highWater := some 28800 }

theorem witness_EntriesFallDue :
    ((resolve (planned { Timetable.cold with week := Vector.replicate 7 (.plan 3) }).dev 100 = .plan 3 ∧
      resolve up.dev 100 ≠ .plan 3 ∧ ({ Timetable.cold with today := some 100 } : Timetable).today = some 100 ∧
      (none : Option PlanRef) ≠ some (resolve up.dev 100)) ∧
    ((belled .pending).dev.tt.todayPlan = some (.plan 3) ∧
      ((belled .pending).dev.tt.plans[(3 : PlanNo)]).find? (fun y => y.slot == 0) = some (bellMarked .pending none) ∧
      markOf (bellMarked .pending none) = some .pending ∧ markOf (bellMarked .rung none) ≠ some .pending ∧
      bell.kind = .ring 1 ∧ ({ bell with kind := .clip 12 .normal } : Entry).kind = .clip 12 .normal) ∧
    (held.dev.ah.hold = true ∧ up.dev.ah.hold = false ∧ patternOf up.dev 1 = [] ∧ patternOf tuned.dev 1 ≠ [] ∧
      up.dev.rs.runs[(0 : RunIx)] = none ∧
      (∀ r : RunIx, ∃ run, (Vector.replicate 12 (some run1))[r] = some run ∧ ¬(run.state = .done ∧ run.released = 0))) ∧
    (clipLength up.dev 12 = none ∧ (clipLength (announcing [] .idle).dev 12).isSome = true ∧
      (announcing [] .idle).dev.am.queue.length < 12 ∧ sameReq (announcing [] .idle).dev 12 1 .normal = none ∧
      12 ≤ (List.replicate 12 req1).length) ∧
    (forward.dateChanged = false ∧ 28000 < 28800 ∧ 28800 ≤ 28800 ∧ ({ forward with dateChanged := true } : TimeStep).dateChanged = true) ∧
    ((bellMarked .sent (some pass1.pass)).day = some { mark := .sent, late := false, pass := some pass1.pass } ∧
      pass1.plan = 3) ∧
    (outage.now = some { day := 100, sec := 34680 } ∧ ({ outage with now := none } : RestoreEvent).now = none)) ∧
    (replanned.dev.tt.today = some 100 ∧ resolve replanned.dev 100 = .plan 5 ∧
      replanned.dev.tt.todayPlan = some (.plan 3) ∧ replanned.dev.tt.todayPlan ≠ some (resolve replanned.dev 100) ∧
      replanned.dev.tt.highWater = some 28800 ∧ ∃ x ∈ replanned.dev.tt.plans[(5 : PlanNo)], x.time ≤ 28800) :=
  ⟨⟨by decide +kernel, by decide +kernel, ⟨rfl, rfl, by decide +kernel, by decide +kernel, by decide +kernel,
    fun _ => ⟨run1, by simp, by decide⟩⟩, by decide +kernel, by decide, by decide, rfl, rfl⟩,
   by decide +kernel⟩

/-- The second event of 08:00:00 with this step inside it. -/
def stepped (st : Option TimeStep) : SecondEvent :=
  { new := some { day := 100, sec := 28800 }, minute := false, day := false, step := st }

theorem witness_EntriesFallDue_steps :
    ((stepped (some forward)).new = some { day := 100, sec := 28800 } ∧ (stepped (some forward)).step = some forward) ∧
    (stepped none).step = none ∧ ({ stepped none with new := none } : SecondEvent).new = none ∧
    (({ forward with old := none } : TimeStep).dateChanged = false ∧ ({ forward with old := none } : TimeStep).old = none) ∧
    (({ forward with dateChanged := true } : TimeStep).dateChanged = true ∧
      ∀ p, resolve up.dev ({ forward with dateChanged := true } : TimeStep).new.day ≠ .plan p) := by decide +kernel

/-- Run 1 holds building 3, which is in its open barrier. -/
def runHolds : State :=
  let s := rowed (.claimant (.ring 0) .ring) none
  { s with dev := setBarriers [{ claimant := .ring 0, source := .tg 0, members := 8 }] s.dev }

theorem witness_GrantsAndStages :
    ((((rowed .none none).dev.ta.rows[(3 : Building)]).holder = .none ∧
      ((rowed (.claimant .drill .drill) none).dev.ta.rows[(3 : Building)]).holder = .claimant .drill .drill ∧
      Claimant.drill ≠ .ring 0) ∧
    (rowOfKind field3.dev.bus[(3 : Building)] .zoneSwitch = some (station 1 .zoneSwitch) ∧
      rowAt field3.dev.bus[(3 : Building)] (station 1 .zoneSwitch).addr = some (station 1 .zoneSwitch) ∧
      (station 1 .zoneSwitch).state ≠ .offline ∧ (field3.dev.bus[(3 : Building)]).alarm = false ∧
      (field3.dev.bus[(3 : Building)]).queue.length < 6 ∧ rowOfKind up.dev.bus[(3 : Building)] .zoneSwitch = none) ∧
    ((answerFor field3.dev .drill .drill false 0x1000000 3).2 = .granted ∧ ([3] : List Building).Nodup ∧
      (3 : Building) ∈ bsList (zoneBuildings 0x1000000) ∧
      (answerFor up.dev .drill .drill false 0x1000000 3).2 = .failed ∧
      (answerFor (rowed .alarm none).dev .drill .drill false 0x1000000 3).2 = .held .alarm) ∧
    ((rowed .none (some { map := 1, owner := some .drill, phase := .queued 0 })).dev.ta.rows[(3 : Building)].stage =
        some { map := 1, owner := some .drill, phase := .queued 0 } ∧
      ((station 1 .zoneSwitch).addr = 1))) ∧
    ((answerFor runHolds.dev .drill .drill false 0x1000000 3).2 = .granted ∧
      (runHolds.dev.ta.rows[(3 : Building)]).holder = .claimant (.ring 0) .ring ∧
      (runHolds.dev.ta.rows[(3 : Building)]).releasing = false ∧ Claimant.ring 0 ≠ .drill ∧
      (runHolds.dev.bus[(3 : Building)]).alarm = false ∧
      rowOfKind runHolds.dev.bus[(3 : Building)] .zoneSwitch = some (station 1 .zoneSwitch) ∧
      rowAt runHolds.dev.bus[(3 : Building)] 1 = some (station 1 .zoneSwitch) ∧
      ∃ x ∈ runHolds.dev.ta.barriers, x.claimant = .ring 0 ∧ bsHas x.members 3 = true) :=
  ⟨by decide +kernel,
   by decide +kernel⟩

/-- The drill holds building 3 with its stage confirmed, and has an open barrier there. -/
def armed : State :=
  let s := rowed (.claimant .drill .drill) (some { map := 1, owner := some .drill, phase := .confirmed })
  { s with dev := setBarriers [{ claimant := .drill, source := .tg 0, members := 8 }] s.dev }

/-- The drill holds building 3, of a bus in ALARM mode or not, without a barrier. -/
def drillHolds (alarm : Bool) : State :=
  let s := rowed (.claimant .drill .drill) none
  withBus 3 { bus3 with alarm := alarm } s

theorem witness_BarriersReleaseAndLoss :
    ((barrierOf armed.dev .drill = some { claimant := .drill, source := .tg 0, members := 8 } ∧ bsHas 8 3 = true ∧
      bsHas 8 0 = false ∧ switchReachable armed.dev 3 = true ∧
      (armed.dev.ta.rows[(3 : Building)]).stage = some { map := 1, owner := some .drill, phase := .confirmed }) ∧
    ((armed.dev.ta.rows[(3 : Building)]).holder = .claimant .drill .drill ∧
      (armed.dev.ta.rows[(3 : Building)]).releasing = false ∧
      rowOfKind armed.dev.bus[(3 : Building)] .zoneSwitch = some (station 1 .zoneSwitch) ∧
      rowAt armed.dev.bus[(3 : Building)] 1 = some (station 1 .zoneSwitch) ∧
      (armed.dev.bus[(3 : Building)]).alarm = false) ∧
    (({ Row.cold with awaited := some { map := 0, release := some .drill }, releasing := true } : Row).releasing = true ∧
      ({ Row.cold with settling := .awaiting } : Row).settling = .awaiting ∧
      ({ Row.cold with settling := .muting (some 4) } : Row).settling = .muting (some 4))) ∧
    ((bsHas 8 3 = true ∧ ((drillHolds false).dev.ta.rows[(3 : Building)]).releasing = false ∧
        ((drillHolds false).dev.ta.rows[(3 : Building)]).holder = .claimant .drill .drill ∧
        ((drillHolds false).dev.bus[(3 : Building)]).alarm = false ∧ (station 1 .zoneSwitch).state ≠ .offline ∧
        barrierOf (drillHolds false).dev .drill = none) ∧ bsHas 8 0 = false) :=
  ⟨by decide +kernel,
   by decide +kernel⟩

/-- An alarm's record, begun at 01:00. -/
def alarmRecord : Record := { record1 with start := some { day := 100, sec := 3600 } }

theorem witness_LampsPressesAndRecords :
    (({ wanted := some .on, outstanding := none, full := false } : LampKeep).outstanding = none ∧
      LampKeep.cold.wanted = none ∧ rowOfKind up.dev.bus[(3 : Building)] .marshalPanel = none ∧
      rowOfKind field3.dev.bus[(3 : Building)] .marshalPanel = some (station 9 .marshalPanel) ∧
      rowAt field3.dev.bus[(3 : Building)] 9 = some (station 9 .marshalPanel) ∧ LampState.off ≠ .on) ∧
    ((drilling .evac 0).dev.dc.drill = some (drill1 .evac) ∧ recordOf (stored [evacRecord]).dev 1 = some evacRecord ∧
      evacRecord.evacStart = some { day := 100, sec := 3600 } ∧ bsHas (drill1 .evac).buildings 0 = true ∧
      (evacRecord.at_[(0 : Building)]).clear = none ∧ (evacRecord.at_[(0 : Building)]).mute = none) ∧
    (held.dev.ah.record = some 1 ∧ recordOf (stored [alarmRecord]).dev 1 = some alarmRecord ∧
      alarmRecord.start = some { day := 100, sec := 3600 } ∧ bsHas alarmRecord.buildings 0 = true) ∧
    ((stored []).dev.dc.records.length < 8 ∧ 8 ≤ (List.replicate 8 record1).length ∧
      List.replicate 8 record1 = record1 :: List.replicate 7 record1) := by decide +kernel

/-- A drill in EVAC with generator 0, building 0 in this trunk state. -/
def evacuating (t : TrunkState) (started : Bool) : State :=
  let s := sounding .drill
  let x : Drill := { drill1 .evac with gen := some 0, genStarted := started, at_ := Vector.replicate 8 t }
  { s with dev := { s.dev with dc := { s.dev.dc with drill := some x } } }

theorem witness_DrillPhases :
    (((({ script1 with preClip := some 12 } : Script).preClip = some 12 ∧ (announcing [] .idle).dev.ah.hold = false ∧
      clipLength (announcing [] .idle).dev 12 = some 300 ∧
      (∀ q ∈ (announcing [req1] .idle).dev.am.queue, q.origin ≠ .drill)) ∧
    (script1.preClip = none ∧ script1.preDelay = 0 ∧ ({ script1 with preDelay := 120 } : Script).preDelay ≠ 0 ∧
      script1.allClear = none ∧ ({ script1 with allClear := some 12 } : Script).allClear = some 12) ∧
    ((drilling .pre 0).dev.dc.drill = some (drill1 .pre) ∧ (drilling .pre 0).dev.rs.gens[(0 : GenNo)] = none ∧
      (∀ h : GenNo, h < 0 → (up.dev.rs.gens[h]).isSome = true) ∧ bsHas (drill1 .pre).buildings 0 = true) ∧
    (rowOfKind field3.dev.bus[(3 : Building)] .marshalPanel = some (station 9 .marshalPanel) ∧
      rowAt field3.dev.bus[(3 : Building)] 9 = some (station 9 .marshalPanel)) ∧
    (({ drill1 .pre with clip := some 1 } : Drill).clip = some 1 ∧ (drill1 .pre).clip ≠ some 1)) ∧
    ((evacuating .granted false).dev.dc.drill = some
        { drill1 .evac with gen := some 0, genStarted := false, at_ := Vector.replicate 8 .granted } ∧
      (drill1 .evac).phase = .evac ∧ (drill1 .muster).phase ≠ .evac ∧ (drill1 .evac).gen = none ∧ (1 : BuildingSet) ≠ 0 ∧
      (evacuating .granted false).dev.rs.gens[(0 : GenNo)] =
        some { user := .drill, phase := .sounding, steps := [.tone 8 127], since := 0, order := 0 } ∧
      (∀ t : TrunkState, (Vector.replicate 8 t)[(0 : Building)] = t) ∧
      (claimSingle .drill .drill false (allZones 8) [3] up.dev).1 = [(3, .failed)] ∧
      (claimSingle .drill .drill false (allZones 8) [3] field3.dev).1 = [(3, .granted)])) ∧
    (({ drill1 .pre with clip := some 1 } : Drill).phase = .pre ∧
      ({ drill1 .pre with clip := some 1 } : Drill).script.preDelay = 0) :=
  ⟨⟨by decide +kernel,
   ⟨by decide +kernel, rfl, nofun, rfl, by decide, by decide +kernel, fun _ => by simp, by decide +kernel, by decide +kernel⟩⟩,
   by decide +kernel⟩

/-! ### Cases of two chapters -/

/-- A generator that sounds 100 ms of tone 3 and a gap, and one that is ARMED (R104). -/
def toned (p : GenPhase) : Dev :=
  setGen 0 (some { user := .drill, phase := p, steps := [.tone 3 1, .gap 1, .tone 5 1], since := 1000, order := 0 }) up.dev

/-- The tone, then silence in the gap, then the second tone, then silence; an ARMED generator is silent (R104). -/
theorem test_gen_output :
    [1000, 4276, 4277, 7553, 7554, 10830, 10831].map (fun t => genOutput t (toned .sounding) 0) =
      [some 3, some 3, none, none, some 5, some 5, none] ∧ genOutput 1000 (toned .armed) 0 = none := by decide +kernel

/-- Buildings 2 and 3 are held by run 1 and stand in its open barrier. -/
def staging23 : Dev :=
  let s := withBus 2 bus3 (rowed (.claimant (.ring 0) .ring) none)
  setBarriers [{ claimant := .ring 0, source := .tg 0, members := 12 }] (setRow 2 rung s.dev)

/-- A drill's claim takes both: both PREEMPTED notices go before the barrier's check (R90, R94). -/
theorem test_preempted_before_check :
    ((claimSingle .drill .drill false 0x1010000 [2, 3] staging23).2.agenda.filter fun m =>
      m != .busStart 2 && m != .busStart 3) =
      [.preempted [(.ring 0, 2), (.ring 0, 3)], .barrierCheck (.ring 0)] := by decide +kernel

/-- A press at a panel that has no row yet is latched, and the panel's first poll reports and clears it (R25). -/
theorem test_early_press :
    leads (.buildingClearPress 3) { up with tb := { up.tb with clock := 7 } } (fun t =>
      (fieldAt t.dev.bus[(3 : Building)] 0).press = some 7) = true ∧
    leads (.successfulAttempt 3 false) (withBus 3
        { bus3 with
          wire := .attempt { addr := 9, what := .poll false, orphan := false, carried := false }
          field := [{ freshField 0 with press := some 7 }] } up) (fun t =>
      (fieldAt t.dev.bus[(3 : Building)] 0).press.isNone) = true := by decide +kernel

/-- Polls that fall due at one tick do so by ascending address, whatever the order of configuration (R32). -/
theorem test_polls_by_address :
    dueOnBus 9 3 { bus3 with
        rows := [{ station 9 .marshalPanel with pollAt := some 9 }, { station 1 .zoneSwitch with pollAt := some 9 }] } =
      [.pollDue 3 1, .pollDue 3 9] := by decide +kernel

/-- A request that arrived at this very second event is not counted at it (R126). -/
theorem test_newborn_not_counted :
    (reqOf (amSecond (envOf up) plainSecond 4 (announcing [{ req1 with order := 4 }] .idle).dev) 1).map (·.count) =
        some 600 ∧
      (reqOf (amSecond (envOf up) plainSecond 5 (announcing [{ req1 with order := 4 }] .idle).dev) 1).map (·.count) =
        some 599 := by decide +kernel

/-! ### The tick, and what the sixth review asked of the statements -/

/-- A tick at which the clock comes to `now` queues this command. -/
def queuesAt (c : Instr) (now : Nat) (s : State) : Bool :=
  match step { s with tb := { s.tb with clock := now - 1 }, pending := [] } with
  | .next t => t.pending.contains c
  | _ => false

/-- A command is queued as the clock comes to a tick, and not a tick sooner. -/
def dueFrom (c : Instr) (now : Nat) (s : State) : Bool := queuesAt c now s && !queuesAt c (now - 1) s

/-- FIRE at its new level: 1 s toward ACTIVE and 10 s toward QUIET, in ticks of 1/32 768 s (R3, R163). -/
theorem test_tick_fire :
    dueFrom .activation 32768 (fire true false false) = true ∧ dueFrom .quieting 327680 (fire false true false) = true ∧
      queuesAt .quieting 327680 (fire true false false) = false := by decide +kernel

/-- VMAIN for 2 s (R14, R17), a push-to-talk level for 50 ms, which is 1638.4 ticks (R138). -/
theorem test_tick_supply_and_ptt :
    dueFrom .restore 65536 { onBackup with tb := { onBackup.tb with qualifying := some 0 } } = true ∧
      dueFrom .coldStart 65536 { up with tb := { up.tb with retained := false, qualifying := some 0 } } = true ∧
      dueFrom (.pttChange .a) 1639 (paging { page1 with level := true, since := some 0 }) = true := by decide +kernel

/-- The end of the second, a gap in a frame (R173), 12.8 s of a pattern (R104), the windows of the clip port (R120). -/
theorem test_tick_link_and_audio :
    queuesAt .secondEnd 1 { up with tb := { up.tb with sub := 32767, secLen := 32768 } } = true ∧
      queuesAt .secondEnd 1 { up with tb := { up.tb with sub := 32766, secLen := 32768 } } = false ∧
      dueFrom .byteGap 4277 (afterGap 0) = true ∧
      dueFrom (.patternEnd 0) 416154 (sounding (.chime .a)) = true ∧
      (let s : State := announcing [req1Held] .playing
       dueFrom .endLimit 500 { s with dev := { s.dev with am := { s.dev.am with endBy := some 500 } } }) = true := by
  decide +kernel

/-- An entry that a step reaches late under the hold is SUPPRESSED with its late flag clear (log entry 58). -/
theorem test_late_under_hold :
    (todayEntries (passEntry (envOf held) 0 true { day := 100, sec := 28810 }
      { (belled .pending).dev with ah := held.dev.ah })).map (fun x => x.day) =
      [some { mark := .suppressed, late := false, pass := none }] := by decide +kernel

/-- A source change is answered with the buildings that are held and fired (R88). -/
theorem test_source_change :
    (changeSource (.page .a) 0xff (.mic .a)
      (trunk3 { Row.cold with holder := .claimant (.page .a) .normal, fired := true } field3).dev).1 = 8 ∧
    (changeSource (.page .a) 0xff (.mic .a)
      (trunk3 { Row.cold with holder := .claimant (.page .a) .normal, fired := true, releasing := true } field3).dev).1 = 0 := by
  decide +kernel

/-- What expires at a second event is recorded before what the scan ends (log entry 60): request 2 expires, and of
request 1 ahead of it the only zone is disabled. -/
theorem test_expired_before_suppressed :
    let s : State := announcing [req1, { req1 with id := 2, clip := 13, count := 1 }] .idle
    let d : Dev := { s.dev with
      am := { s.dev.am with nextOrder := 5 }
      ta := { s.dev.ta with zones := put s.dev.ta.zones 0 { enabled := false, quiet := none } } }
    leads .secondEnd { s with dev := d } (fun t =>
      t.dev.am.finished.map (fun f => (f.id, f.outcome)) == [(2, .expired), (1, .suppressed)]) = true := by decide +kernel

/-- The set that holds building 3 alone. -/
theorem building3 : ∀ c : Building, bsHas 8 c = true ↔ c = 3 := by decide

/-- A building leaves every released set, and a set left with none is dropped (R122); a run's and a page's lose it too
(R107, R144). -/
theorem test_released_sets :
    (amForget 8 { up.dev with am := { up.dev.am with released := [(4, 9), (5, 8)] } }).am.released = [(4, 1)] ∧
      ((runsForget 3 (ringing { run1 with released := 9 }).dev).rs.runs[(0 : RunIx)]).map (fun r => r.released) = some 1 ∧
      (pageOf (pageForget .a 3 (paging { page1 with released := 9 }).dev) .a).released = 1 := by decide +kernel

/-- The request of a CLIP entry meets one of its clip, zones and priority (R124, R125). -/
theorem witness_AnnounceRequests_merge :
    (announcing [{ req1 with id := 7, clip := 13 }, { req1 with count := 100 }] .idle).dev.am.queue =
        [{ req1 with id := 7, clip := 13 }] ++ { req1 with count := 100 } :: [] ∧
      (req1.clip = 12 ∧ req1.zones = 1 ∧ req1.prio = .normal) ∧ ¬(({ req1 with id := 7, clip := 13 } : AnnounceReq).clip = 12) ∧
      (clipEntry pass1 12 1 .normal
        (announcing [{ req1 with id := 7, clip := 13 }, { req1 with count := 100 }] .idle).dev).1 = .taken 1 ∧
      (clipEntry pass1 12 1 .normal
        (announcing [{ req1 with id := 7, clip := 13 }, { req1 with count := 100 }] .idle).dev).2.am.queue.map
          (fun q => q.count) = [600, 300] ∧
      (bsHas 8 3 = true ∧ ((3, ClaimAnswer.granted) : Building × ClaimAnswer) ∈ [((3 : Building), ClaimAnswer.granted)]) := by
  decide +kernel

/-- Slot A in CHIME with generator 0, of building 0. -/
def chiming : State :=
  let s := sounding (.chime .a)
  { s with dev := setPage .a { page1 with state := .chime, chimeGen := some 0, held := 1 } s.dev }

theorem witness_PageRequests_chime :
    takesAtOnce chiming = true ∧ pageOf chiming.dev .a = { page1 with state := .chime, chimeGen := some 0, held := 1 } ∧
      chiming.dev.rs.waitList = [] ∧ (chiming.dev.rs.gens[(0 : GenNo)]).isSome = true := by decide +kernel

/-- PAGE CLOSE in CHIME: the slot is IDLE, its building released, its generator IDLE (R144). -/
theorem test_page_close_in_chime :
    leads (.pageClose 1 0) chiming (fun t => (pageOf t.dev .a).state = .idle && (pageOf t.dev .a).released == 1 &&
      (t.dev.rs.gens[(0 : GenNo)]).isNone) = true := by decide +kernel

/-- The alarm gives a page's chime generator back (R146). -/
theorem test_alarm_ends_chime : ((puAlarm chiming.dev).rs.gens[(0 : GenNo)]).isNone = true := by decide +kernel

/-- The drill of building 3 enters EVAC with generator 0, and its building is granted. -/
def entering3 : State :=
  { field3 with dev := { field3.dev with dc := { field3.dev.dc with drill := some { drill1 .pre with buildings := 8 } } } }

theorem witness_DrillPhases_evac :
    entering3.dev.dc.drill = some { drill1 .pre with buildings := 8 } ∧ bsHas 8 3 = true ∧
      (((enterEvac (envOf entering3) entering3.dev).dc.drill).any fun x =>
        x.at_[(3 : Building)] == .granted && x.gen == some 0) = true ∧
      ((barrierOf (enterEvac (envOf entering3) entering3.dev) .drill).any fun z =>
        z.source == .tg 0 && z.members == 8) = true := by decide +kernel

theorem witness_DrillPhases_clip :
    ({ drill1 .allClear with clip := some 1, outcome := some .complete } : Drill).clip = some 1 ∧
      ({ drill1 .allClear with clip := some 1, outcome := some .complete } : Drill).outcome = some .complete ∧
      (drill1 .allClear).phase = .allClear := by decide

/-! ### Rows, cut RESTARTs, probes and records -/

/-- Zone 0 of building 0 is quiet until this second. -/
def quietUntil (u : Stamp) : State :=
  let s := timed 100 3600
  { s with dev := { s.dev with ta := { s.dev.ta with
      zones := put s.dev.ta.zones (zoneIndex 0 0) { enabled := true, quiet := some u } } } }

theorem witness_SecondRowsAreTheirSecondEvent_rest :
    ((withLine (some faulty) field3).dev.lines[(2 : LineNo)] = some faulty ∧ faulty.fault.isSome = true ∧
      29 ≤ faulty.faultWait ∧ faulty.enabled = true ∧ faulty.view = .online ∧ faulty.probe = none) ∧
    ((planned { (belled .pending).dev.tt with today := some 100, highWater := some 28799 }).dev.tt.today = some 100 ∧
      nextTime (timed 100 28799).tb = some { day := 100, sec := 28800 } ∧ bell.time = 28800) ∧
    (((quietUntil { day := 100, sec := 3600 }).dev.ta.zones[zoneIndex 0 0]).quiet = some { day := 100, sec := 3600 } ∧
      nextTime (quietUntil { day := 100, sec := 3600 }).tb = some { day := 100, sec := 3601 } ∧
      100 * 86400 + 3600 < 100 * 86400 + 3601) ∧
    ((ringing { run1 with count := 1 }).dev.rs.runs[(0 : RunIx)] = some { run1 with count := 1 } ∧ run1.state = .claiming) ∧
    (reqOf (announcing [req1Later] .idle).dev 1 = some req1Later ∧ req1Later.playing = false ∧ req1Later.eligible = false ∧
      req1Later.notBefore = some { day := 100, sec := 3600 } ∧
      nextTime (announcing [req1Later] .idle).tb = some { day := 100, sec := 3601 } ∧
      100 * 86400 + 3600 ≤ 100 * 86400 + 3601) ∧
    ((pageOf (paging { page1 with state := .opened, started := true, talkCount := 299 }).dev .a).state = .opened ∧
      (pageOf (paging { page1 with state := .opened, started := true, talkCount := 299 }).dev .a).started = true ∧
      up.link.settings.pageTalk ≤ 299 + 1) ∧
    (lateDrill.moment.day * 86400 + lateDrill.moment.sec ≤ 100 * 86400 + 3601 ∧
      ({ scripted.dev.dc with slot := some lateDrill } : DrillControl).slot = some lateDrill ∧
      nextTime scripted.tb = some { day := 100, sec := 3601 }) := by decide +kernel

/-- An entry falls due at the coming second event: the clause's whole premise. -/
theorem witness_SecondRowsAreTheirSecondEvent_entry :
    let s : State := { timed 100 28799 with dev := { up.dev with
      tt := { (belled .pending).dev.tt with today := some 100, highWater := some 28799 } } }
    isRunning s.tb = true ∧ (∃ x ∈ pendingNext s, x.slot = 0 ∧ x.time = 28800) ∧
      nextTime s.tb = some { day := 100, sec := 28800 } := by decide +kernel

theorem witness_EntryToBackupWritesTheStamp_restart :
    isPowered restarting.tb = true ∧
      restarting.tb.restart = some { began := none, spanned := false, shifted := false } ∧
      restarting.link.settings.stampMode = .last := by decide

theorem witness_LineRequests_disable :
    takesAtOnce (withLine (some (probing .pending)) field3) = true ∧ (2 : LineNo).1 = 2 ∧
      (withLine (some (probing .pending)) field3).dev.lines[(2 : LineNo)] = some (probing .pending) ∧
      (probing .pending).probe = some (.host, .pending) ∧ (probing .sent).probe = some (.host, .sent) ∧
      autumnLine.probe = none := by decide +kernel

/-- LINE DISABLE ends a PENDING probe with result NONE, and leaves one that is under way (R43). -/
theorem test_disable_ends_a_pending_probe :
    leads (.lineDisable 1 2) (withLine (some (probing .pending)) field3) (fun t =>
      (t.dev.lines[(2 : LineNo)]).any fun l => l.state == .disabled && l.probe.isNone && l.lastProbe == .none) = true ∧
    leads (.lineDisable 1 2) (withLine (some (probing .sent)) field3) (fun t =>
      (t.dev.lines[(2 : LineNo)]).any fun l => l.state == .disabled && l.probe == some (.host, .sent)) = true := by
  decide +kernel

/-- A PROBE of driver 3.4 on the wires, carried by a RESTART or not. -/
def probeSent (carried : Bool) : Dev :=
  let t : Transaction :=
    { addr := 4, what := .command { addr := 4, op := .probe, owner := .lc 2, serial := 0 }, orphan := false
      carried := carried }
  (withBus 3 { bus3 with wire := .attempt t } up).dev

/-- A PROBE that ends DONE is followed by its first probe poll (R30), one that a RESTART carries is not (log entry 61). -/
theorem test_carried_probe_has_no_poll :
    ((rowAt ((attemptSucceeds (envOf up) 3 false (probeSent false)).bus[(3 : Building)]) 4).map fun r => r.probeAt.isSome) =
        some true ∧
      ((rowAt ((attemptSucceeds (envOf up) 3 false (probeSent true)).bus[(3 : Building)]) 4).map fun r => r.probeAt.isSome) =
        some false := by decide +kernel

/-- A drill clip that DC places at a second event preempts a request before AM counts: its record joins before that of the
request ahead of it in the queue that expires then (log entry 60). -/
theorem test_drill_clip_before_expiry :
    let s := announcing [{ req1 with count := 1 }, { req1 with id := 2, playing := true }] .starting
    let dr : Drill :=
      { drill1 .muster with script := { script1 with allClear := some 12, clearLimit := 60 }, count := 59 }
    let d : Dev := { s.dev with
      am := { s.dev.am with nextOrder := 5 }
      dc := { s.dev.dc with drill := some dr } }
    leads .secondEnd { s with dev := d } (fun t =>
      t.dev.am.finished.map (fun f => (f.id, f.outcome)) == [(2, .preempted), (1, .expired)]) = true := by decide +kernel

/-- A record open across the calendar's wrap ends with its stamp of the last day (log entry 62). -/
theorem test_record_across_the_wrap :
    ((closeRecord (some { day := 0, sec := 5 }) 1 .complete
        (stored [{ record1 with start := some { day := 36524, sec := 86390 } }]).dev).dc.records.map fun r => r.endTime) =
      [some { day := 36524, sec := 86390 }] := by decide

theorem witness_LampsPressesAndRecords_absent :
    recordOf (stored [record1]).dev 1 = some record1 ∧ record1.start = none ∧ record1.evacStart = none ∧
      (drilling .evac 0).dev.dc.drill = some (drill1 .evac) ∧ (drill1 .evac).record = 1 ∧ held.dev.ah.record = some 1 ∧
      up.dev.dc.drill = none ∧ up.dev.ah.record = none := by decide +kernel

theorem witness_DrillPhases_busy :
    (∃ q ∈ (announcing [drillReq] .idle).dev.am.queue, q.origin = .drill) ∧ (announcing [drillReq] .idle).dev.ah.hold = false ∧
      clipLength (announcing [drillReq] .idle).dev 12 = some 300 ∧
      (drilling .muster 0).dev.dc.drill = some (drill1 .muster) :=
  ⟨⟨_, List.mem_singleton.mpr rfl, rfl⟩, by decide +kernel, by decide +kernel, by decide +kernel⟩

end Sys2Proof.Tests
end

section
/-! The planned shift slot (chapter 1.5): when SHIFT PLAN is refused (R10), and what each operation of TB leaves in the
slot (R8, R11 to R14, R17, R18). -/

namespace Sys2Proof.Machine

/-! ## Moments and ranges -/

/-- Campus times compare as dates, by their seconds since day 0 (log entry 51). -/
theorem stampLe_iff {t u : Stamp} : stampLe t u = true ↔ t.day * 86400 + t.sec ≤ u.day * 86400 + u.sec :=
  decide_eq_true_iff

theorem planPassed_iff {p : ShiftPlan} {t : Stamp} :
    planPassed p t = true ↔ p.day * 86400 + p.stated ≤ t.day * 86400 + t.sec :=
  stampLe_iff

theorem stampInRange_iff {t : Stamp} : stampInRange t = true ↔ t.day ≤ 36524 ∧ t.sec ≤ 86399 := by
  simp only [stampInRange, Bool.and_eq_true, decide_eq_true_eq]
  exact Iff.rfl

theorem shiftInRange_iff {day stated : Nat} {shift : Int} :
    shiftInRange day stated shift = true ↔
      day ≤ 36524 ∧ (1 ≤ stated ∧ stated ≤ 86399) ∧
        (shift ≠ 0 ∧ shift % 60 = 0 ∧ -7200 ≤ shift ∧ shift ≤ 7200) ∧
        0 ≤ (stated : Int) + shift ∧ (stated : Int) + shift ≤ 86399 := by
  simp only [shiftInRange, Bool.and_eq_true, decide_eq_true_eq, and_assoc]
  exact Iff.rfl

/-- SHIFT PLAN is refused where one of the five points of R10 holds. -/
theorem shiftPlan_refused_iff {day stated : Nat} {shift : Int} {now : Stamp} :
    shiftInRange day stated shift = false ∨ stampLe { day := day, sec := stated } now = true ↔
      36524 < day ∨ (stated < 1 ∨ 86399 < stated) ∨ (shift = 0 ∨ shift % 60 ≠ 0 ∨ shift < -7200 ∨ 7200 < shift) ∨
        ((stated : Int) + shift < 0 ∨ 86399 < (stated : Int) + shift) ∨
        day * 86400 + stated ≤ now.day * 86400 + now.sec := by
  rw [← Bool.not_eq_true, shiftInRange_iff, stampLe_iff]
  dsimp only
  omega

/-! ## SHIFT PLAN (R10) -/

section
variable {day stated : Nat} {shift : Int} {s : State} {now : Stamp}

theorem serveShiftPlan_noTime (ht : s.tb.time = none) : serveShiftPlan day stated shift s = refuse .noTime s := by
  simp only [serveShiftPlan, ht]

theorem serveShiftPlan_range (ht : s.tb.time = some now)
    (h : shiftInRange day stated shift = false ∨ stampLe { day := day, sec := stated } now = true) :
    serveShiftPlan day stated shift s = refuse .range s := by
  simp only [serveShiftPlan, ht]
  exact if_pos (by simpa using h)

theorem serveShiftPlan_ok (ht : s.tb.time = some now)
    (h : ¬(shiftInRange day stated shift = false ∨ stampLe { day := day, sec := stated } now = true)) :
    serveShiftPlan day stated shift s =
      accept (setTb { s.tb with slot := some { day := day, stated := stated, shift := shift } } s) := by
  simp only [serveShiftPlan, ht]
  exact if_neg (by simpa using h)

end

/-- Settles O18: SHIFT PLAN is taken at once, and its service answers by the cases of R10. -/
theorem shiftPlanFillsTheSlot : Obligations.ShiftPlanFillsTheSlot := by
  intro tag day stated shift s hs
  refine ⟨fun ht => exec_served rfl hs (serveShiftPlan_noTime ht), fun now ht => ?_⟩
  intro bad
  exact ⟨fun h => exec_served rfl hs (serveShiftPlan_range ht (shiftPlan_refused_iff.mpr h)),
    fun h => exec_served rfl hs (serveShiftPlan_ok ht (mt shiftPlan_refused_iff.mp h))⟩

/-! ## What empties the slot -/

/-- The end of the second at which the planned shift applies (R12), on the main supply or not. -/
theorem endSecond_slot_of_shiftDue {s : State} (hd : (shiftDue s.tb).isSome = true) (hr : s.tb.retained = true) :
    (endSecond s).tb.slot = none := by
  have htb : (tbAfterSecond s.tb).slot = none := if_pos hd
  simp only [endSecond, hr, Bool.not_true, Bool.false_eq_true, if_false]
  split
  · exact htb
  · exact htb

/-- A time that is loaded empties the slot of a plan that it passes (R8). -/
theorem loadTime_slot_of_passed {s : State} {t : Stamp} {p : ShiftPlan} (hp : s.tb.slot = some p)
    (h : planPassed p t = true) : (loadTime t s).tb.slot = none := by
  simp [loadTime, hp, h]

theorem serveTimeSet_inRange {day sec : Nat} {s : State} (hd : day ≤ 36524) (hs : sec ≤ 86399) :
    serveTimeSet day sec s = accept (loadTime { day := day, sec := sec } s) :=
  if_pos (stampInRange_iff.mpr ⟨hd, hs⟩)

/-- A TIME SET reaches the time base at the end of its frame, taken at once or waiting (R8, R174). -/
theorem hostRequest_timeSet_tb {tag day sec : Nat} {s : State} (hr : isRunning s.tb = true)
    (hl : s.link.inReply = none ∨ s.link.waiting = none) :
    (hostRequest tag (.timeSet day sec) s).tb = (serveTimeSet day sec (hunting s)).state.tb := by
  by_cases hi : s.link.inReply = none
  · rw [hostRequest_taken (by simp [takesAtOnce, hr, hi])]
    rfl
  · rw [hostRequest_waits hr (Option.isSome_iff_ne_none.mpr hi) (hl.resolve_left hi)]
    rfl

/-- A COLD start leaves the slot empty (R17), a RESTART that follows it at once too. -/
theorem coldStarts_slot (s : State) : (coldStarts s).tb.slot = none := by
  unfold coldStarts
  dsimp only
  split
  · rfl
  · rfl

/-! ## What keeps the slot -/

@[simp] theorem beginRestart_slot (s : State) : (beginRestart s).tb.slot = s.tb.slot := rfl

@[simp] theorem endRestart_slot (s : State) : (endRestart s).tb.slot = s.tb.slot := by
  unfold endRestart
  split
  · rfl
  · rfl

@[simp] theorem cutRestart_slot (taken : BuildingSet) (s : State) : (cutRestart taken s).tb.slot = s.tb.slot := by
  unfold cutRestart
  split
  · exact endRestart_slot _
  · rfl

@[simp] theorem checkRetained_slot (tb : Timebase) : (checkRetained tb).slot = tb.slot := by
  unfold checkRetained
  split
  · rfl
  · rfl

@[simp] theorem stampAtLoss_slot (mode : StampMode) (tb : Timebase) : (stampAtLoss mode tb).slot = tb.slot := by
  cases mode with
  | last => rfl
  | first =>
    simp only [stampAtLoss]
    split
    · rfl
    · rfl

@[simp] theorem stampAtRestore_slot (mode : StampMode) (tb : Timebase) :
    (stampAtRestore mode tb).slot = tb.slot := by
  cases mode with
  | last => rfl
  | first =>
    simp only [stampAtRestore]
    split
    · rfl
    · rfl

@[simp] theorem enterBackup_slot (taken : BuildingSet) (s : State) :
    (enterBackup taken s).tb.slot = s.tb.slot := by
  simp [enterBackup, tbBackup]

@[simp] theorem leaveBackup_slot (s : State) : (leaveBackup s).tb.slot = s.tb.slot := by
  unfold leaveBackup
  dsimp only
  split
  · simp [tbRestore]
  · simp [tbRestore]

/-- RESTART on either edge of RESETN, entry to backup and RESTORE keep the plan, where they happen or not (R11). -/
theorem exec_supplyEvent_slot {s t : State} {taken : BuildingSet}
    (h : exec .resetnAssert s = .next t ∨ exec .resetnRelease s = .next t ∨ exec (.entryToBackup taken) s = .next t ∨
      exec .restore s = .next t) : t.tb.slot = s.tb.slot := by
  rcases h with h | h | h | h <;> (injection h with h; subst h)
  case inl =>
    split
    · rfl
    · rfl
  case inr.inl => exact endRestart_slot _
  case inr.inr.inl =>
    split
    · exact enterBackup_slot taken s
    · rfl
  case inr.inr.inr =>
    split
    · exact leaveBackup_slot s
    · rfl

/-- The RESTART that a RESTART request asks for begins and ends as its reply has gone (R181). -/
theorem replyGone_restart {s : State} {q : Replying} (hr : isRunning s.tb = true) (hq : s.link.inReply = some q)
    (hw : q.restart = true) :
    replyGone s = endRestart (beginRestart (setLink { s.link with inReply := none } s)) := by
  simp only [replyGone, hr, hq, hw, Bool.not_true, Bool.false_eq_true, if_false, if_true]

/-- Settles O19: each event in turn, by what it leaves in the slot. -/
theorem shiftCancelEmptiesTheSlot : Obligations.ShiftCancelEmptiesTheSlot := by
  refine ⟨fun tag s hs => exec_served rfl hs rfl, ?_, ?_, ?_, fun s t taken h => exec_supplyEvent_slot h, ?_⟩
  · intro s t hd hr h
    injection h with h
    exact h ▸ endSecond_slot_of_shiftDue hd hr
  · intro tag day sec s t p hr hl hday hsec hp hle h
    rw [exec_asRequest s rfl] at h
    injection h with h
    subst h
    rw [hostRequest_timeSet_tb hr hl, serveTimeSet_inRange hday hsec]
    exact loadTime_slot_of_passed (s := hunting s) hp (planPassed_iff.mpr hle)
  · intro s t hret hmain h
    injection h with h
    rw [if_pos ⟨hret, hmain⟩] at h
    exact h ▸ coldStarts_slot s
  · intro s t q hr hq hw h
    injection h with h
    rw [replyGone_restart hr hq hw] at h
    exact h ▸ endRestart_slot _

end Sys2Proof.Machine
end

section
/-! The calendar (chapter 4.2): the week map, the exception table and what governs a date (R68 to R71). -/

namespace Sys2Proof.Machine

/-! ## Plans as requests name them (R182) -/

section
variable {named : PlanRef} {n : Nat}

theorem planRefOf_plan (p : PlanNo) : planRefOf named p.1 = some (.plan p) := by
  have hp : p.1 ≠ 65535 := by omega
  simp [planRefOf, asFin, hp]

theorem planRefOf_named : planRefOf named 65535 = some named := if_pos rfl

theorem planRefOf_eq_none_iff : planRefOf named n = none ↔ 15 < n ∧ n ≠ 65535 := by
  by_cases hn : n = 65535
  · simp [planRefOf, hn]
  · have hp : n < 16 ↔ ¬15 < n := by omega
    simp [planRefOf, asFin, hn, hp]

/-- The number that a request sends for what governs a date: a plan's own, or 65535 for the named value. -/
theorem planRefOf_eq_some {ref : PlanRef} (h : (∃ p : PlanNo, p.1 = n ∧ ref = .plan p) ∨ (n = 65535 ∧ ref = named)) :
    planRefOf named n = some ref := by
  rcases h with ⟨p, rfl, rfl⟩ | ⟨rfl, rfl⟩
  · exact planRefOf_plan p
  · exact planRefOf_named

end

/-! ## WEEK SET (R68) -/

/-- The week map that seven values of a WEEK SET name. -/
def weekOf (plans : Vector Nat 7) : Vector PlanRef 7 := tabMap (fun n => (weekRef n).getD .none) plans

section
variable {plans : Vector Nat 7} {s : State}

theorem weekOf_none {i : Fin 7} (h : plans[i] = 65535) : (weekOf plans)[i] = .none := by
  simp only [weekOf, tabMap_get, h, weekRef, planRefOf_named, Option.getD_some]

theorem weekOf_plan {i : Fin 7} {p : PlanNo} (h : p.1 = plans[i]) : (weekOf plans)[i] = .plan p := by
  simp only [weekOf, tabMap_get, ← h, weekRef, planRefOf_plan, Option.getD_some]

/-- One of the seven values is neither a plan nor 65535. -/
theorem weekSet_refused_iff :
    (plans.toList.any fun n => (weekRef n).isNone) = true ↔ ∃ i : Fin 7, 15 < plans[i] ∧ plans[i] ≠ 65535 := by
  simp only [List.any_eq_true, Option.isNone_iff_eq_none, weekRef, planRefOf_eq_none_iff, Vector.mem_toList_iff]
  constructor
  · rintro ⟨n, hn, h⟩
    obtain ⟨i, hi, rfl⟩ := Vector.mem_iff_getElem.mp hn
    exact ⟨⟨i, hi⟩, h⟩
  · rintro ⟨i, h⟩
    exact ⟨plans[i], Vector.getElem_mem i.2, h⟩

theorem serveWeekSet_range (h : ∃ i : Fin 7, 15 < plans[i] ∧ plans[i] ≠ 65535) :
    serveWeekSet plans s = refuse .range s :=
  if_pos (weekSet_refused_iff.mpr h)

theorem serveWeekSet_ok (h : ∀ i : Fin 7, plans[i] ≤ 15 ∨ plans[i] = 65535) :
    serveWeekSet plans s =
      accept { s with dev := reResolve { s.dev with tt := { s.dev.tt with week := weekOf plans } } } := by
  refine if_neg (mt weekSet_refused_iff.mp ?_)
  rintro ⟨i, hbig, hnamed⟩
  exact (h i).elim (Nat.not_le.mpr hbig) hnamed

end

/-! ## EXCEPTION ADD (R69) -/

/-- A row is placed behind the rows that begin before it. -/
theorem insertRow_eq (r : ExceptionRow) (l : List ExceptionRow) :
    insertRow r l = (l.takeWhile fun q => decide (q.first < r.first)) ++
      r :: (l.dropWhile fun q => decide (q.first < r.first)) := by
  induction l with
  | nil => rfl
  | cons q rest ih =>
    by_cases hq : q.first < r.first
    · simp [insertRow, hq, ih]
    · simp [insertRow, hq]

section
variable {first last plan : Nat} {ref : PlanRef} {s : State}

/-- Days or a plan out of range refuse EXCEPTION ADD before the table is looked at. -/
theorem serveExceptionAdd_range
    (h : 36524 < first ∨ 36524 < last ∨ last < first ∨ first + 366 < last ∨ (15 < plan ∧ plan ≠ 65535)) :
    serveExceptionAdd first last plan s = refuse .range s := by
  unfold serveExceptionAdd
  cases hp : planRefOf .silent plan with
  | none => rfl
  | some ref =>
    have hplan : ¬(15 < plan ∧ plan ≠ 65535) := by
      rw [← planRefOf_eq_none_iff (named := .silent), hp]
      exact Option.some_ne_none ref
    refine if_pos ?_
    show 36524 < first ∨ 36524 < last ∨ last < first ∨ first + 366 < last
    simpa only [hplan, or_false] using h

/-- The days of an EXCEPTION ADD are in range (R69). -/
def exceptionDaysFit (first last : Nat) : Prop :=
  first ≤ 36524 ∧ last ≤ 36524 ∧ first ≤ last ∧ last ≤ first + 366

/-- With days and plan in range, the table decides. -/
theorem serveExceptionAdd_inRange (hp : planRefOf .silent plan = some ref) (hd : exceptionDaysFit first last) :
    serveExceptionAdd first last plan s =
      if ∃ q ∈ s.dev.tt.exceptions, q.first ≤ last ∧ first ≤ q.last then refuse .conflict s
      else if 40 ≤ s.dev.tt.exceptions.length then refuse .full s
      else accept { s with dev := reResolve { s.dev with tt := { s.dev.tt with
        exceptions := insertRow { first := first, last := last, plan := ref } s.dev.tt.exceptions } } } := by
  obtain ⟨hfirst, hlast, hle, hspan⟩ := hd
  have hdays : ¬(Config.lastDay < first ∨ Config.lastDay < last ∨ last < first ∨ first + 366 < last) := by
    simp only [Config.lastDay]
    omega
  simp only [serveExceptionAdd, hp, if_neg hdays, List.any_eq_true, Bool.and_eq_true, decide_eq_true_eq]
  rfl

theorem serveExceptionAdd_conflict (hp : planRefOf .silent plan = some ref) (hd : exceptionDaysFit first last)
    (hq : ∃ q ∈ s.dev.tt.exceptions, q.first ≤ last ∧ first ≤ q.last) :
    serveExceptionAdd first last plan s = refuse .conflict s := by
  rw [serveExceptionAdd_inRange hp hd, if_pos hq]

/-- Rows that end before the new days or begin after them share no day with them. -/
theorem no_overlap {l : List ExceptionRow} (h : ∀ q ∈ l, last < q.first ∨ q.last < first) :
    ¬∃ q ∈ l, q.first ≤ last ∧ first ≤ q.last := by
  rintro ⟨q, hq, hbegins, hends⟩
  exact (h q hq).elim (Nat.not_lt.mpr hbegins) (Nat.not_lt.mpr hends)

theorem serveExceptionAdd_full (hp : planRefOf .silent plan = some ref) (hd : exceptionDaysFit first last)
    (hfree : ∀ q ∈ s.dev.tt.exceptions, last < q.first ∨ q.last < first) (hlen : 40 ≤ s.dev.tt.exceptions.length) :
    serveExceptionAdd first last plan s = refuse .full s := by
  rw [serveExceptionAdd_inRange hp hd, if_neg (no_overlap hfree), if_pos hlen]

theorem serveExceptionAdd_ok (hp : planRefOf .silent plan = some ref) (hd : exceptionDaysFit first last)
    (hfree : ∀ q ∈ s.dev.tt.exceptions, last < q.first ∨ q.last < first) (hlen : s.dev.tt.exceptions.length < 40) :
    serveExceptionAdd first last plan s =
      accept { s with dev := reResolve { s.dev with tt := { s.dev.tt with
        exceptions := (s.dev.tt.exceptions.takeWhile fun q => decide (q.first < first)) ++
          { first := first, last := last, plan := ref } ::
            (s.dev.tt.exceptions.dropWhile fun q => decide (q.first < first)) } } } := by
  rw [serveExceptionAdd_inRange hp hd, if_neg (no_overlap hfree), if_neg (Nat.not_le.mpr hlen), insertRow_eq]

end

/-! ## EXCEPTION REMOVE (R70) -/

section
variable {day : Nat} {s : State}

theorem serveExceptionRemove_range (h : 36524 < day) : serveExceptionRemove day s = refuse .range s := if_pos h

/-- With the day in range, a row that begins on it decides. -/
theorem serveExceptionRemove_inRange (h : day ≤ 36524) :
    serveExceptionRemove day s =
      if ∃ q ∈ s.dev.tt.exceptions, q.first = day then
        accept { s with dev := reResolve { s.dev with tt := { s.dev.tt with
          exceptions := s.dev.tt.exceptions.filter fun q => q.first != day } } }
      else refuse .notFound s := by
  have hday : ¬Config.lastDay < day := Nat.not_lt.mpr h
  simp only [serveExceptionRemove, if_neg hday, List.any_eq_true, beq_iff_eq]
  rfl

theorem serveExceptionRemove_notFound (h : day ≤ 36524) (hq : ∀ q ∈ s.dev.tt.exceptions, q.first ≠ day) :
    serveExceptionRemove day s = refuse .notFound s := by
  rw [serveExceptionRemove_inRange h, if_neg fun ⟨q, hmem, heq⟩ => hq q hmem heq]

theorem serveExceptionRemove_ok (h : day ≤ 36524) (hq : ∃ q ∈ s.dev.tt.exceptions, q.first = day) :
    serveExceptionRemove day s =
      accept { s with dev := reResolve { s.dev with tt := { s.dev.tt with
        exceptions := s.dev.tt.exceptions.filter fun q => q.first != day } } } := by
  rw [serveExceptionRemove_inRange h, if_pos hq]

end

/-! ## What governs a date (R71) -/

section
variable {d : Dev} {day : Nat}

/-- Rows that end before a day or begin after it do not cover it. -/
theorem find_covering_eq_none {l : List ExceptionRow} (h : ∀ x ∈ l, day < x.first ∨ x.last < day) :
    (l.find? fun r => r.first ≤ day && day ≤ r.last) = none := by
  refine List.find?_eq_none.mpr fun x hx => ?_
  simp only [Bool.and_eq_true, decide_eq_true_eq]
  exact fun ⟨hbegins, hends⟩ => (h x hx).elim (Nat.not_lt.mpr hbegins) (Nat.not_lt.mpr hends)

/-- The first row that covers a date governs it. -/
theorem resolve_of_covered {before after : List ExceptionRow} {q : ExceptionRow}
    (hl : d.tt.exceptions = before ++ q :: after) (hb : ∀ x ∈ before, day < x.first ∨ x.last < day)
    (hfirst : q.first ≤ day) (hlast : day ≤ q.last) : resolve d day = q.plan := by
  have hrow : coveringRow d day = some q := by
    simp [coveringRow, hl, List.find?_append, find_covering_eq_none hb, hfirst, hlast]
  simp only [resolve, hrow]

/-- The week map governs a date that no row covers. -/
theorem resolve_of_uncovered (h : ∀ x ∈ d.tt.exceptions, day < x.first ∨ x.last < day) :
    resolve d day = d.tt.week[weekday day] := by
  have hrow : coveringRow d day = none := find_covering_eq_none h
  simp only [resolve, hrow]

end

/-- Settles O39: each request is taken at once and answered by its service's cases; a date is resolved by the first row
that covers it, or by the week map. -/
theorem calendarResolvesDates : Obligations.CalendarResolvesDates := by
  refine ⟨fun tag s hs => ⟨fun plans => ⟨fun h => ?_, fun h => ?_⟩, fun first last plan => ?_, fun day => ⟨?_, ?_, ?_⟩⟩,
    fun d day => ⟨fun before after q => resolve_of_covered, resolve_of_uncovered⟩⟩
  · exact exec_served rfl hs (serveWeekSet_range h)
  · exact ⟨{ s.dev.tt with week := weekOf plans }, exec_served rfl hs (serveWeekSet_ok h), rfl,
      fun i => ⟨weekOf_none, fun p => weekOf_plan⟩⟩
  · intro answered
    refine ⟨fun h => exec_served rfl hs (serveExceptionAdd_range h), fun ref href hf hl hle hspan => ?_⟩
    have hp := planRefOf_eq_some href
    have hd : exceptionDaysFit first last := ⟨hf, hl, hle, hspan⟩
    exact ⟨fun hq => exec_served rfl hs (serveExceptionAdd_conflict hp hd hq), fun hfree =>
      ⟨fun hlen => exec_served rfl hs (serveExceptionAdd_full hp hd hfree hlen),
        fun hlen => exec_served rfl hs (serveExceptionAdd_ok hp hd hfree hlen)⟩⟩
  · exact fun h => exec_served rfl hs (serveExceptionRemove_range h)
  · exact fun h hq => exec_served rfl hs (serveExceptionRemove_notFound h hq)
  · exact fun h hq => exec_served rfl hs (serveExceptionRemove_ok h hq)

end Sys2Proof.Machine
end

section
/-! The clip table (chapter 7.1): when CLIP DEFINE is refused, and the record that it rewrites (R119). -/

namespace Sys2Proof.Machine

/-! ## Clips as requests number them -/

theorem clipIx_succ (i : Fin 64) : clipIx (i.1 + 1) = some i := by simp [clipIx, asFin]

theorem clipIx_eq_none {clip : Nat} (h : clip < 1 ∨ 64 < clip) : clipIx clip = none := by
  rcases h with hzero | hbig
  · exact if_neg (Nat.not_le.mpr hzero)
  · have hout : ¬clip - 1 < 64 := by omega
    simp only [clipIx, asFin, dif_neg hout, ite_self]

/-! ## CLIP DEFINE (R119) -/

section
variable {length : Nat} {s : State}

/-- A clip out of range refuses CLIP DEFINE, and so does a length, whatever the clip. -/
theorem serveClipDefine_range {clip : Nat} (h : clip < 1 ∨ 64 < clip ∨ 3000 < length) :
    serveClipDefine clip length s = refuse .range s := by
  unfold serveClipDefine
  cases hi : clipIx clip with
  | none => rfl
  | some i =>
    have hclip : ¬(clip < 1 ∨ 64 < clip) := mt clipIx_eq_none (by simp [hi])
    exact if_pos ((or_assoc.mpr h).resolve_left hclip)

theorem serveClipDefine_ok {i : Fin 64} (h : length ≤ 3000) :
    serveClipDefine (i.1 + 1) length s =
      accept { s with dev := { s.dev with am := { s.dev.am with
        clips := put s.dev.am.clips i (if length = 0 then none else some length) } } } := by
  simp only [serveClipDefine, clipIx_succ, if_neg (Nat.not_lt.mpr h)]
  rfl

end

/-- Settles O48: CLIP DEFINE is taken at once and answered by its service's cases; what it stores differs from the state
before it in the clip's record alone, so every request in the queue is as it was. -/
theorem clipDefineRewritesTheRecord : Obligations.ClipDefineRewritesTheRecord := by
  refine fun tag clip length s hs => ⟨fun h => exec_served rfl hs (serveClipDefine_range h), ?_⟩
  rintro i rfl hlen
  refine ⟨_, ?_, rfl⟩
  exact exec_served rfl hs (serveClipDefine_ok hlen)

end Sys2Proof.Machine
end

section
/-! The page slots' requests (chapter 8): PAGE SET by its checks (R137), and PAGE CLOSE by the state of the slot
(R138, R144). -/

namespace Sys2Proof.Machine

/-! ## Slots, priorities and triggers as requests number them (R182) -/

theorem pageSlotOf_slotCode (k : PageSlot) : pageSlotOf (slotCode k) = some k := by
  cases k with
  | a => rfl
  | b => rfl

theorem pageSlotOf_eq_none {n : Nat} (h : 1 < n) : pageSlotOf n = none := by
  match n, h with
  | _ + 2, _ => rfl

theorem urgencyOf_eq_none {n : Nat} (h : 1 < n) : urgencyOf n = none := by
  match n, h with
  | _ + 2, _ => rfl

theorem urgencyOf_le_one {n : Nat} (h : n ≤ 1) : urgencyOf n = some (if n = 0 then .normal else .urgent) := by
  match n, h with
  | 0, _ => rfl
  | 1, _ => rfl

theorem triggerOf_eq_none {n : Nat} (h : 1 < n) : triggerOf n = none := by
  match n, h with
  | _ + 2, _ => rfl

theorem triggerOf_le_one {n : Nat} (h : n ≤ 1) : triggerOf n = some (if n = 0 then .level else .edge) := by
  match n, h with
  | 0, _ => rfl
  | 1, _ => rfl

/-! ## PAGE SET (R137) -/

section
variable {slot : Nat} {zones : ZoneSet} {priority chime trigger : Nat} {s : State} {k : PageSlot}

/-- A value out of range refuses PAGE SET before the hold and the slot are looked at. -/
theorem servePageSet_range (h : 1 < slot ∨ 1 < priority ∨ 32 < chime ∨ 1 < trigger) :
    servePageSet slot zones priority chime trigger s = refuse .range s := by
  unfold servePageSet
  split
  next k u t hk hu ht =>
    have hslot : ¬1 < slot := mt pageSlotOf_eq_none (by simp [hk])
    have hpriority : ¬1 < priority := mt urgencyOf_eq_none (by simp [hu])
    have htrigger : ¬1 < trigger := mt triggerOf_eq_none (by simp [ht])
    exact if_pos (by omega)
  next => rfl

/-- With every value in range, the hold and then the slot's state decide. -/
theorem servePageSet_inRange (hk : pageSlotOf slot = some k) (hp : priority ≤ 1) (hc : chime ≤ 32)
    (ht : trigger ≤ 1) :
    servePageSet slot zones priority chime trigger s =
      if s.dev.ah.hold then refuse .refused s
      else if (pageOf s.dev k).state ≠ .idle then refuse .busy s
      else accept (mapDev (modPage k (configurePage zones (if priority = 0 then .normal else .urgent) chime
        (if trigger = 0 then .level else .edge))) s) := by
  simp only [servePageSet, hk, urgencyOf_le_one hp, triggerOf_le_one ht, if_neg (Nat.not_lt.mpr hc)]

theorem servePageSet_refused (hk : pageSlotOf slot = some k) (hp : priority ≤ 1) (hc : chime ≤ 32)
    (ht : trigger ≤ 1) (hhold : s.dev.ah.hold = true) :
    servePageSet slot zones priority chime trigger s = refuse .refused s := by
  rw [servePageSet_inRange hk hp hc ht, if_pos hhold]

theorem servePageSet_busy (hk : pageSlotOf slot = some k) (hp : priority ≤ 1) (hc : chime ≤ 32)
    (ht : trigger ≤ 1) (hhold : s.dev.ah.hold = false) (hstate : (pageOf s.dev k).state ≠ .idle) :
    servePageSet slot zones priority chime trigger s = refuse .busy s := by
  rw [servePageSet_inRange hk hp hc ht, if_neg (ne_true_of_eq_false hhold), if_pos hstate]

/-- The new configuration, with a lockout only in LEVEL mode while the switch is seen asserted (R137, R138). -/
theorem configurePage_eq {u : Urgency} {p : Page} :
    configurePage zones u chime (if trigger = 0 then .level else .edge) p =
      { p with
        configured := decide (zones ≠ 0), zones := zones
        urgency := u
        chimePattern := if chime = 0 then none else some chime
        trigger := if trigger = 0 then .level else .edge
        lockout := decide (trigger = 0) && p.seen } := by
  have hlevel : ((if trigger = 0 then Trigger.level else .edge) = .level) = (trigger = 0) := by simp
  have hzones : (zones != 0) = decide (zones ≠ 0) := by simp [bne, beq_eq_decide]
  simp only [configurePage, hlevel, hzones]

theorem servePageSet_ok (hk : pageSlotOf slot = some k) (hp : priority ≤ 1) (hc : chime ≤ 32)
    (ht : trigger ≤ 1) (hhold : s.dev.ah.hold = false) (hstate : (pageOf s.dev k).state = .idle) :
    servePageSet slot zones priority chime trigger s =
      accept { s with dev := (setPage k
        { pageOf s.dev k with
          configured := decide (zones ≠ 0), zones := zones
          urgency := if priority = 0 then .normal else .urgent
          chimePattern := if chime = 0 then none else some chime
          trigger := if trigger = 0 then .level else .edge
          lockout := decide (trigger = 0) && (pageOf s.dev k).seen } s.dev) } := by
  rw [servePageSet_inRange hk hp hc ht, if_neg (ne_true_of_eq_false hhold), if_neg (not_not_intro hstate), mapDev,
    modPage, configurePage_eq]

end

/-! ## PAGE CLOSE (R144) -/

section
variable {slot : Nat} {s : State} {k : PageSlot} {d : Dev}

theorem servePageClose_range (h : 1 < slot) : servePageClose slot s = refuse .range s := by
  simp only [servePageClose, pageSlotOf_eq_none h]

theorem servePageClose_slot (hk : pageSlotOf slot = some k) :
    servePageClose slot s = accept (settled s (hostClose k s.dev)) := by
  simp only [servePageClose, hk, inBlocks_eq]

theorem hostClose_idle (h : (pageOf d k).state = .idle) : hostClose k d = d := by
  simp only [hostClose, h]

theorem hostClose_waiting (h : (pageOf d k).state = .waiting) :
    hostClose k d = setPage k (lockOut (idlePage (pageOf d k))) d := by
  simp only [hostClose, h]
  rfl

theorem hostClose_open (h : (pageOf d k).state = .chime ∨ (pageOf d k).state = .opened) :
    hostClose k d = modPage k lockOut (closePage k d) := by
  rcases h with h | h
  · simp only [hostClose, h]
  · simp only [hostClose, h]

@[simp] theorem modPage_setPage {f : Page → Page} {x : Page} : modPage k f (setPage k x d) = setPage k (f x) d := by
  simp [modPage]

/-- Blocks that have nothing to hand one another stay as they are. -/
theorem settled_nil (h : d.agenda = []) : settled s d = { s with dev := d } := by
  simp only [settled, settle_nil h]

theorem servePageClose_idle (hk : pageSlotOf slot = some k) (hstate : (pageOf s.dev k).state = .idle)
    (ha : s.dev.agenda = []) : servePageClose slot s = accept s := by
  rw [servePageClose_slot hk, hostClose_idle hstate, settled_nil ha]

theorem servePageClose_waiting (hk : pageSlotOf slot = some k) (hstate : (pageOf s.dev k).state = .waiting)
    (ha : s.dev.agenda = []) :
    servePageClose slot s =
      accept { s with dev := setPage k (lockOut (idlePage (pageOf s.dev k))) s.dev } := by
  rw [servePageClose_slot hk, hostClose_waiting hstate, settled_nil ((setPage_agenda ..).trans ha)]

theorem servePageClose_open (hk : pageSlotOf slot = some k)
    (hstate : (pageOf s.dev k).state = .chime ∨ (pageOf s.dev k).state = .opened) :
    servePageClose slot s = accept (settled s (modPage k lockOut (closePage k s.dev))) := by
  rw [servePageClose_slot hk, hostClose_open hstate]

end

/-- Settles O51: both requests are taken at once; PAGE SET answers by its checks in their order, PAGE CLOSE by the state
of the slot. -/
theorem pageRequests : Obligations.PageRequests := by
  refine ⟨fun tag slot zones priority chime trigger s hs => ?_, fun tag slot s hs => ?_⟩
  · intro answered
    refine ⟨fun h => exec_served rfl hs (servePageSet_range h), ?_⟩
    rintro k p hslot rfl hp hc ht
    have hk : pageSlotOf slot = some k := hslot ▸ pageSlotOf_slotCode k
    exact ⟨fun hhold => exec_served rfl hs (servePageSet_refused hk hp hc ht hhold),
      fun hhold hstate => exec_served rfl hs (servePageSet_busy hk hp hc ht hhold hstate),
      fun hhold hstate => exec_served rfl hs (servePageSet_ok hk hp hc ht hhold hstate)⟩
  · intro locked
    refine ⟨fun h => exec_served rfl hs (servePageClose_range h), ?_⟩
    rintro k p hslot rfl
    have hk : pageSlotOf slot = some k := hslot ▸ pageSlotOf_slotCode k
    refine ⟨fun hstate ha => exec_served rfl hs (servePageClose_idle hk hstate ha), fun hstate ha => ?_, ?_⟩
    · have hclose := servePageClose_waiting (s := hunting s) hk hstate ha
      rw [lockOut_eq] at hclose
      exact exec_served rfl hs hclose
    · rintro hstate freed rfl
      have hclose := servePageClose_open (s := hunting s) hk hstate
      rw [closePage_eq, modPage_setPage, lockOut_eq] at hclose
      exact exec_served rfl hs hclose

end Sys2Proof.Machine
end

section
/-! What a RESTART keeps of the conditions (R178), ATTENTION SET with ATTN (R179), and RESTART by request (R181). -/

namespace Sys2Proof.Machine

/-! ## Conditions through a RESTART and a COLD start (R17, R18, R178) -/

theorem condHas_condBit (c : Cond) : condHas (condBit c) c = true := by
  cases c <;> rfl

theorem condHas_latch (c : Cond) (d : Dev) : condHas (latch c d).conds c = true := by
  have hbit : (condBit c).getLsbD (condNumber c) = true := condHas_condBit c
  simp [condHas, hbit]

/-- What a command leaves sound keeps every condition latched. -/
theorem Sound.condHas {d d' : Dev} {c : Cond} (h : Sound d d') (hc : condHas d.conds c = true) :
    condHas d'.conds c = true :=
  h.conds (condNumber c) hc

/-- LP's part of a RESTART, by whether a request is held (R176). -/
theorem linkRestart_dev_eq_latch (s : State) : (linkRestart s).dev =
    if s.link.inReply.isSome || s.link.waiting.isSome then latch .linkOverrun s.dev else s.dev := rfl

theorem linkRestart_sound (s : State) : Sound s.dev (linkRestart s).dev := by
  rw [linkRestart_dev_eq_latch]
  split
  · exact (latch_kept (.refl _)).sound
  · exact .refl _

/-- A request that is given up as a RESTART begins is told by LINK OVERRUN (R176). -/
theorem linkRestart_condHas {s : State} (h : s.link.inReply.isSome = true ∨ s.link.waiting.isSome = true) :
    condHas (linkRestart s).dev.conds .linkOverrun = true := by
  rw [linkRestart_dev_eq_latch, if_pos (Bool.or_eq_true_iff.mpr h)]
  exact condHas_latch _ _

/-- The blocks at the beginning of a RESTART keep what LP leaves them. -/
theorem beginRestart_sound_of_link (s : State) : Sound (linkRestart s).dev (beginRestart s).dev :=
  (devRestart_sound (.refl _)).kept (settle_kept (.refl _))

theorem beginRestart_sound (s : State) : Sound s.dev (beginRestart s).dev :=
  (linkRestart_sound s).trans (beginRestart_sound_of_link s)

theorem beginRestart_condHas {s : State} (h : s.link.inReply.isSome = true ∨ s.link.waiting.isSome = true) :
    condHas (beginRestart s).dev.conds .linkOverrun = true :=
  (beginRestart_sound_of_link s).condHas (linkRestart_condHas h)

theorem endRestart_sound (s : State) : Sound s.dev (endRestart s).dev := by
  unfold endRestart
  split
  · exact .refl _
  · exact (devRestartEnds_sound (.refl _)).kept (settle_kept (.refl _))

/-- After a COLD start, a RESTART that follows it at once included, the device is on the main supply with its retained
state valid (R17). -/
theorem coldStarts_powered (s : State) : (coldStarts s).tb.supply = .main ∧ (coldStarts s).tb.retained = true := by
  unfold coldStarts
  dsimp only
  split
  · exact ⟨rfl, rfl⟩
  · exact ⟨rfl, rfl⟩

theorem coldStarts_mask (s : State) : (coldStarts s).link.mask = 0xFFFF := by
  unfold coldStarts
  dsimp only
  split
  · rfl
  · rfl

theorem coldDev_condHas (clock : Nat) (d : Dev) : condHas (coldDev clock d).conds .coldStart = true := by
  have hconds : (coldDev clock d).conds = 1 := rfl
  rw [hconds]
  rfl

theorem coldStarts_condHas (s : State) : condHas (coldStarts s).dev.conds .coldStart = true := by
  unfold coldStarts
  dsimp only
  split
  · exact (beginRestart_sound _).condHas (coldDev_condHas _ _)
  · exact coldDev_condHas _ _

/-! ## ATTN (R179) -/

/-- Two condition sets meet where they have a number in common. -/
theorem condSets_meet_iff (x y : CondSet) :
    x &&& y ≠ 0#16 ↔ ∃ n : Nat, x.getLsbD n = true ∧ y.getLsbD n = true := by
  simp [BitVec.zero_iff_eq_false]

theorem attnLow_iff {s : State} (hr : s.tb.retained = true) :
    attnLow s = true ↔
      s.tb.supply = .main ∧ ∃ n : Nat, s.dev.conds.getLsbD n = true ∧ s.link.mask.getLsbD n = true := by
  rw [← condSets_meet_iff]
  simp [attnLow, hr]

/-- A latched condition that the mask holds drives ATTN on the main supply. -/
theorem attnLow_of_condHas {s : State} {c : Cond} (hs : s.tb.supply = .main) (hr : s.tb.retained = true)
    (hc : condHas s.dev.conds c = true) (hm : condHas s.link.mask c = true) : attnLow s = true :=
  (attnLow_iff hr).mpr ⟨hs, condNumber c, hc, hm⟩

theorem coldStarts_attnLow (s : State) : attnLow (coldStarts s) = true := by
  obtain ⟨hsupply, hretained⟩ := coldStarts_powered s
  refine attnLow_of_condHas hsupply hretained (coldStarts_condHas s) ?_
  rw [coldStarts_mask]
  rfl

theorem exec_coldStart_taken {s : State} (hr : s.tb.retained = false) (hv : s.tb.vmain = true) :
    exec .coldStart s = .next (coldStarts s) :=
  congrArg _ (if_pos ⟨hr, hv⟩)

/-- Settles O12: the service rewrites the mask alone, ATTN is the meeting of set and mask, and a COLD start latches its
own condition under a full mask, which a RESTART that follows it at once does not clear. -/
theorem attentionSetAndAttn : Obligations.AttentionSetAndAttn := by
  refine ⟨fun tag c s hs => exec_served rfl hs rfl, fun s hr => attnLow_iff hr, fun s hr hv => ?_⟩
  exact ⟨coldStarts s, exec_coldStart_taken hr hv, coldStarts_attnLow s, coldStarts_condHas s, coldStarts_mask s⟩

/-! ## RESTART by request (R181) -/

@[simp] theorem endRestart_link (s : State) : (endRestart s).link = s.link := by
  unfold endRestart
  split
  · rfl
  · rfl

/-- A RESTART that ends where it began leaves the time base of a running device as it was. -/
theorem endRestart_beginRestart_tb {s : State} (h : isRunning s.tb = true) :
    (endRestart (beginRestart s)).tb = s.tb := by
  have hnone : s.tb.restart = none := by
    simp only [isRunning, Bool.and_eq_true, Option.isNone_iff_eq_none] at h
    exact h.2
  show { s.tb with restart := none } = s.tb
  rw [← hnone]

/-- Settles O14: the service changes nothing; as the reply goes out the RESTART begins and ends with no request in
reply, so that LINK OVERRUN tells of one that waited. -/
theorem restartByRequest : Obligations.RestartByRequest := by
  refine ⟨rfl, rfl, fun tag s hs => exec_served rfl hs rfl, fun s q hr hq hw => ?_⟩
  have hsent : exec .replySent s =
      .next (endRestart (beginRestart { s with link := { s.link with inReply := none } })) :=
    congrArg _ (replyGone_restart hr hq hw)
  refine ⟨hsent, _, hsent, endRestart_link _, endRestart_beginRestart_tb hr, fun hwaits => ?_⟩
  exact (endRestart_sound _).condHas (beginRestart_condHas (.inr hwaits))

end Sys2Proof.Machine
end
